-- ==== Sys2Proof/Word.lean ====
section
/-! DEFINITION. The words of the machine: what the spec treats as bits, and the register numbers. -/

namespace Sys2Proof

/-- One 64-bit register of the host window, and one limb (spec R5: `W = 64`, host access width 64; R51). -/
abbrev Word := BitVec 64

/-- One command word (spec R70: every command is exactly one 32-bit word). -/
abbrev CmdWord := BitVec 32

/-- The number of a big-integer register, `X0` to `X7` (spec R20, R72). -/
abbrev XIdx := Fin 8

end Sys2Proof
end

