-- ==== Sys2Proof/Syntax.lean ====
section
/-! DEFINITION. The commands of the block: one constructor per row of spec/opcode_table.json (spec R75), operands in
the assembler's order, destination first (spec R78). -/

namespace Sys2Proof

/-- A command. Register fields are register numbers (spec R72); immediates are the 16-bit field IMM16 (spec R74). -/
inductive Instr where
  /-- `NOP` (format Z, spec R150). -/
  | nop
  /-- `SETN imm` (format I, spec R151). -/
  | setn (imm : BitVec 16)
  /-- `CLR Xd` (format D, spec R152). -/
  | clr (rd : XIdx)
  /-- `MOV Xd, Xs` (format DS, spec R153). -/
  | mov (rd rs1 : XIdx)
  /-- `LDL Xd, imm` (format DI, spec R154). -/
  | ldl (rd : XIdx) (imm : BitVec 16)
  /-- `POW2 Xd, imm` (format DI, spec R100). -/
  | pow2 (rd : XIdx) (imm : BitVec 16)
  /-- `POW2N Xd, imm` (format DI, spec R102). -/
  | pow2n (rd : XIdx) (imm : BitVec 16)
  /-- `DIV Xd, Xs, Xt` (format R, spec R104). -/
  | div (rd rs1 rs2 : XIdx)
  /-- `MUL Xd, Xs, Xt` (format R, spec R106). -/
  | mul (rd rs1 rs2 : XIdx)
  /-- `SUB Xd, Xs, Xt` (format R, spec R108). -/
  | sub (rd rs1 rs2 : XIdx)
  /-- `LIMB Xs, imm` (format SI, spec R110). -/
  | limb (rs1 : XIdx) (imm : BitVec 16)
  /-- `DECOMP Xs` (format S, spec R137). -/
  | decomp (rs1 : XIdx)
  /-- `BARRETT Xd, Xs` (format DS, spec R130). -/
  | barrett (rd rs1 : XIdx)
deriving DecidableEq, Repr

end Sys2Proof
end

