-- ==== Sys2Proof/WellFormed.lean ====
section
/-! DEFINITION. Which command terms are commands of the block. Register numbers and immediates are in range by their
types; the one further decode constraint is BARRETT's (spec R75, R76, R130). -/

namespace Sys2Proof

/-- BARRETT's `RD` must be `0..5`, so that `RD+2 <= 7` (spec R130); every other term is well formed. -/
def Instr.wellFormed : Instr → Bool
  | .nop => true
  | .setn _ => true
  | .clr _ => true
  | .mov _ _ => true
  | .ldl _ _ => true
  | .pow2 _ _ => true
  | .pow2n _ _ => true
  | .div _ _ _ => true
  | .mul _ _ _ => true
  | .sub _ _ _ => true
  | .limb _ _ => true
  | .decomp _ => true
  | .barrett rd _ => decide (rd.val ≤ 5)

end Sys2Proof
end

