-- ==== Sys2Proof/Decode.lean ====
section
/-! DEFINITION. Decoding of a command word, total over all 2^32 words (spec R76), and the encoder (spec R80). -/

namespace Sys2Proof

/-- Why a word is illegal. The block has the one verdict ILLEGAL (spec R76); the names follow the cases of spec R173
(a nonzero fixed-zero bit and a used register field of 8 or more are one case here: both are a fixed-zero bit of
R73). DESIGN CHOICE (log 11, safe): no effect depends on which. -/
inductive Illegal where
  /-- The opcode is in no row of spec R75. -/
  | reservedOpcode
  /-- A fixed-zero bit of the opcode's row is set (spec R73, R77). -/
  | fixedZeroBit
  /-- A BARRETT word with `RD > 5` (spec R76). -/
  | barrettDestination
deriving DecidableEq, Repr

/-- `c[31:24]`, the opcode field (spec R71). -/
def opField (c : CmdWord) : BitVec 8 := c.extractLsb' 24 8

/-- `c[22:20]`, the register number of RD (spec R71). -/
def rdField (c : CmdWord) : XIdx := (c.extractLsb' 20 3).toFin

/-- `c[18:16]`, the register number of RS1 (spec R71). -/
def rs1Field (c : CmdWord) : XIdx := (c.extractLsb' 16 3).toFin

/-- `c[14:12]`, the register number of RS2 (spec R71). -/
def rs2Field (c : CmdWord) : XIdx := (c.extractLsb' 12 3).toFin

/-- `c[15:0]`, the immediate (spec R71, R74). -/
def immField (c : CmdWord) : BitVec 16 := c.extractLsb' 0 16

/-- One row of the opcode map: `c` selects it exactly when `(c AND mask) = pattern` (spec R75; `pattern` is the
table's match). `build` reads the operand fields of the row's format (spec R73). -/
structure OpcodeRow where
  pattern : CmdWord
  mask : CmdWord
  build : CmdWord → Instr

/-- The opcode map of spec R75, row by row. -/
def opcodeRows : List OpcodeRow :=
  [ ⟨0x00000000, 0xFFFFFFFF, fun _ => .nop⟩,
    ⟨0x01000000, 0xFFFF0000, fun c => .setn (immField c)⟩,
    ⟨0x02000000, 0xFF8FFFFF, fun c => .clr (rdField c)⟩,
    ⟨0x03000000, 0xFF88FFFF, fun c => .mov (rdField c) (rs1Field c)⟩,
    ⟨0x04000000, 0xFF8F0000, fun c => .ldl (rdField c) (immField c)⟩,
    ⟨0x08000000, 0xFF8F0000, fun c => .pow2 (rdField c) (immField c)⟩,
    ⟨0x09000000, 0xFF8F0000, fun c => .pow2n (rdField c) (immField c)⟩,
    ⟨0x0A000000, 0xFF888FFF, fun c => .div (rdField c) (rs1Field c) (rs2Field c)⟩,
    ⟨0x0B000000, 0xFF888FFF, fun c => .mul (rdField c) (rs1Field c) (rs2Field c)⟩,
    ⟨0x0C000000, 0xFF888FFF, fun c => .sub (rdField c) (rs1Field c) (rs2Field c)⟩,
    ⟨0x10000000, 0xFFF80000, fun c => .limb (rs1Field c) (immField c)⟩,
    ⟨0x11000000, 0xFFF8FFFF, fun c => .decomp (rs1Field c)⟩,
    ⟨0x18000000, 0xFF88FFFF, fun c => .barrett (rdField c) (rs1Field c)⟩ ]

/-- The first row of a list that a word selects (spec R76). -/
def selectRow (c : CmdWord) : List OpcodeRow → Option OpcodeRow
  | [] => none
  | row :: rest => if c &&& row.mask = row.pattern then some row else selectRow c rest

/-- The opcodes of spec R75. -/
def listedOpcodes : List (BitVec 8) :=
  [0x00, 0x01, 0x02, 0x03, 0x04, 0x08, 0x09, 0x0A, 0x0B, 0x0C, 0x10, 0x11, 0x18]

/-- Decoding of a command word (spec R76), total, an illegal word rejected by name. -/
def decode (c : CmdWord) : Except Illegal Instr :=
  match selectRow c opcodeRows with
  | none => if opField c ∈ listedOpcodes then .error .fixedZeroBit else .error .reservedOpcode
  | some row =>
    if (row.build c).wellFormed then .ok (row.build c) else .error .barrettDestination

/-- A word with a field value at a bit position (spec R80: `field << position`). -/
def placed (width : Nat) (v : BitVec width) (position : Nat) : CmdWord := v.setWidth 32 <<< position

/-- A register field: `0b0rrr` at a bit position (spec R72, R80). -/
def placedReg (r : XIdx) (position : Nat) : CmdWord := placed 3 (BitVec.ofFin r) position

/-- The opcode of a command (spec R75). -/
def Instr.opcode : Instr → BitVec 8
  | .nop => 0x00
  | .setn _ => 0x01
  | .clr _ => 0x02
  | .mov _ _ => 0x03
  | .ldl _ _ => 0x04
  | .pow2 _ _ => 0x08
  | .pow2n _ _ => 0x09
  | .div _ _ _ => 0x0A
  | .mul _ _ _ => 0x0B
  | .sub _ _ _ => 0x0C
  | .limb _ _ => 0x10
  | .decomp _ => 0x11
  | .barrett _ _ => 0x18

/-- The operand fields of a command in their places, every unused field 0 (spec R71, R73, R80). -/
def Instr.operandBits : Instr → CmdWord
  | .nop => 0
  | .setn imm => placed 16 imm 0
  | .clr rd => placedReg rd 20
  | .mov rd rs1 => placedReg rd 20 ||| placedReg rs1 16
  | .ldl rd imm => placedReg rd 20 ||| placed 16 imm 0
  | .pow2 rd imm => placedReg rd 20 ||| placed 16 imm 0
  | .pow2n rd imm => placedReg rd 20 ||| placed 16 imm 0
  | .div rd rs1 rs2 => placedReg rd 20 ||| placedReg rs1 16 ||| placedReg rs2 12
  | .mul rd rs1 rs2 => placedReg rd 20 ||| placedReg rs1 16 ||| placedReg rs2 12
  | .sub rd rs1 rs2 => placedReg rd 20 ||| placedReg rs1 16 ||| placedReg rs2 12
  | .limb rs1 imm => placedReg rs1 16 ||| placed 16 imm 0
  | .decomp rs1 => placedReg rs1 16
  | .barrett rd rs1 => placedReg rd 20 ||| placedReg rs1 16

/-- The encoding function of spec R80. -/
def encode (i : Instr) : CmdWord := placed 8 i.opcode 24 ||| i.operandBits

/-- The command word of a table row whose bits are the low `nbits` bits of `w`, every bit above them 0: the one
32-bit word of a command is the low half of the 64-bit CMD write (spec R70). -/
def tableWord (nbits w : Nat) : CmdWord := BitVec.ofNat 32 (w % 2 ^ nbits)

/-- The instruction the decoder reads from a table row's bits, none where the word is illegal. -/
def decodeTableWord (nbits w : Nat) : Option Instr :=
  match decode (tableWord nbits w) with
  | .ok i => some i
  | .error _ => none

end Sys2Proof
end

