-- ==== Sys2Proof/Config.lean ====
section
/-! DEFINITION. What an implementation and its platform fix: the four open parameters of spec/92 (log 1), the sizes
derived from LMAX, and the free values the spec leaves open (log 3). -/

namespace Sys2Proof

/-- Where the platform connects the interrupt line (spec R181, parameter `SMDC_IRQ`): no rule depends on it. -/
structure IrqRoute where
  controller : Nat
  line : Nat
  priority : Nat
deriving DecidableEq, Repr

/-- Polarity and synchronisation of the reset input (spec R200, parameter `RST_POLARITY`). -/
structure RstPolarity where
  activeHigh : Bool
  synchronous : Bool
deriving DecidableEq, Repr

/-- The parameters a model takes as arguments (spec/92 Open parameters). DESIGN CHOICE (log 1): they travel in
`State.cfg`, which no step changes, so that a statement about every state holds for every value of them. -/
structure Config where
  /-- Largest limb count the block accepts (spec R5). -/
  lmax : Nat
  /-- Base address of the 4 KiB register window (spec R50). -/
  smdcBase : Nat
  /-- Routing of the interrupt line (spec R181). -/
  smdcIrq : IrqRoute
  /-- The reset input's polarity and synchronisation (spec R200). -/
  rstPolarity : RstPolarity
deriving DecidableEq, Repr

/-- The constraints of spec R5 (`1 <= LMAX <= 480`) and R50 (`SMDC_BASE` 4096-byte aligned). -/
abbrev Config.Valid (c : Config) : Prop :=
  1 ≤ c.lmax ∧ c.lmax ≤ 480 ∧ c.smdcBase % 4096 = 0

/-- `K = 2*LMAX + 1`, the capacity of a big-integer register in limbs (spec R5, R20). -/
def Config.k (c : Config) : Nat := 2 * c.lmax + 1

/-- `CAP = 64*K`, the capacity of a big-integer register in bits (spec R5, R20). -/
def Config.cap (c : Config) : Nat := 64 * c.k

/-- DESIGN CHOICE (log 1, unsafe): the parameters of `State.reset`: the configuration of the spec's test vectors,
`LMAX = 4`, at base 0. No statement rests on these values. -/
def Config.standard : Config :=
  { lmax := 4, smdcBase := 0, smdcIrq := ⟨0, 0, 0⟩, rstPolarity := ⟨true, true⟩ }

/-- The free value of spec R206 (log 3): what the `i`-th read of a result register while BUSY = 1 returns. It has no
body, so nothing can be proved of it. -/
opaque Config.busyRead : Nat → Word

end Sys2Proof
end

