-- ==== Sys2Proof/Machine/State.lean ====
section
/-! DEFINITION. The state of the machine, as plain data: every element of spec R38, the parameters (log 1), and the
model's own fields for what stands outside the block (log 2 to 5); why a step can stop; the state after reset. -/

namespace Sys2Proof.Machine

open Sys2Proof

/-- The eight big-integer registers (spec R20). Each holds one natural number (spec R6); that it is below `2^CAP` is
part of the invariant `State.Wf` (log 9). -/
structure XRegs where
  x0 : Nat
  x1 : Nat
  x2 : Nat
  x3 : Nat
  x4 : Nat
  x5 : Nat
  x6 : Nat
  x7 : Nat
deriving DecidableEq, Repr

/-- What reaches the block next (spec R10, R55, R183, R200). The list of them in `State.arrivals` fixes the order of
host accesses and engine steps; every order is some list (log 2). -/
inductive Arrival where
  /-- A host read at a platform address, of a width in bits (spec R54). -/
  | read (addr bits : Nat)
  /-- A host write at a platform address, of a width in bits; `data` is what a 64-bit write carries (spec R54). -/
  | write (addr bits : Nat) (data : Word)
  /-- The engine's turn: its complete step, where that is enabled (spec R10). -/
  | engineTurn
  /-- The platform puts a level on the reset input `RST` (spec R200). -/
  | rst (level : Bool)
deriving DecidableEq, Repr

/-- What the block answers to a host access (spec R54). -/
inductive Response where
  /-- The data of a permitted read. -/
  | readData (data : Word)
  /-- A permitted write was performed (its effect may be none, or to be dropped: spec R34, R52). -/
  | writeDone
  /-- A refused access: a bus error response, with read data `data` (spec R54: always 0). -/
  | busError (data : Word)
deriving DecidableEq, Repr

/-- The whole state. -/
structure State where
  /-- The open parameters (spec/92); no step changes them (log 1). -/
  cfg : Config
  /-- `X0`..`X7` (spec R20). -/
  xs : XRegs
  /-- The limb count `N`, 0 when unset (spec R22). -/
  n : BitVec 16
  /-- `DIN` (spec R23). -/
  din : Word
  /-- `DOUT` (spec R24). -/
  dout : Word
  /-- `OBUF[0..LMAX-1]` (spec R25). -/
  obuf : List Word
  /-- `OCNT` (spec R26). -/
  ocnt : BitVec 16
  /-- `ERRCMD` (spec R27). -/
  errcmd : Word
  /-- `CTRL.IE` (spec R28). -/
  ie : Bool
  /-- `STATUS.BUSY` (spec R29). -/
  busy : Bool
  /-- `STATUS.DONE` (spec R29). -/
  done : Bool
  /-- `STATUS.TRUNC` (spec R29). -/
  trunc : Bool
  /-- `STATUS.OVR` (spec R29). -/
  ovr : Bool
  /-- `STATUS.ERR` (spec R29, R171). -/
  err : BitVec 8
  /-- The command latch `CUR` (spec R33). -/
  cur : CmdWord
  /-- The model's own: whether `RST` is asserted (spec R200, log 5). -/
  rst : Bool
  /-- The model's own: what reaches the block next, oldest first (log 2). It is no queue of the block (spec R34). -/
  arrivals : List Arrival
  /-- The model's own: the response to the last host access (log 4). -/
  resp : Option Response
  /-- The model's own: how many free values busy reads have drawn (spec R206, log 3). -/
  draws : Nat
deriving DecidableEq, Repr

/-- Why the machine stops. -/
inductive Fault where
  /-- Raised by a step whose next arrival is a host access at an address outside the 4096-byte window: the block has
  no such address (spec R50). Safe (log 7): the platform delivers no such access to the block. -/
  | outsideWindow (addr : Nat)
deriving DecidableEq, Repr

/-- What the model gives no meaning. -/
inductive Refusal where
  /-- Raised by an arm of `exec` that has no meaning yet. Safe. Every arm has its meaning: no step answers it. -/
  | notModelled (mnemonic : String)
deriving DecidableEq, Repr

/-- Every state element at its reset value (spec R38, R200), for given parameters; the model's own fields at theirs
(log 2 to 5). -/
def State.resetWith (cfg : Config) : State :=
  { cfg := cfg
    xs := ⟨0, 0, 0, 0, 0, 0, 0, 0⟩
    n := 0
    din := 0
    dout := 0
    obuf := List.replicate cfg.lmax 0
    ocnt := 0
    errcmd := 0
    ie := false
    busy := false
    done := false
    trunc := false
    ovr := false
    err := 0
    cur := 0
    rst := false
    arrivals := []
    resp := none
    draws := 0 }

/-- The machine right after reset (spec R200, R202), with the parameters of `Config.standard` (log 1). -/
def State.reset : State := State.resetWith Config.standard

end Sys2Proof.Machine
end

