-- ==== Sys2Proof/Machine/Ops.lean ====
section
/-! DEFINITION. The named operations on the state: the big-integer registers, ending a command with and without an
error (spec R175 to R177) and leaving the error state (spec R178), command acceptance (spec R34), and the resets
(spec R200, R201). -/

namespace Sys2Proof.Machine

open Sys2Proof

/-- The error causes of spec R171. -/
inductive ErrorCode where
  | illegalCommand
  | invalidParameters
  | divisionByZero
  | underflow
  | capacityOverflow
deriving DecidableEq, Repr

/-- The value of `STATUS.ERR` for an error (spec R171). -/
def ErrorCode.code : ErrorCode → BitVec 8
  | .illegalCommand => 0x01
  | .invalidParameters => 0x02
  | .divisionByZero => 0x03
  | .underflow => 0x04
  | .capacityOverflow => 0x05

/-- One big-integer register of a register file. -/
def XRegs.get (r : XRegs) : XIdx → Nat
  | ⟨0, _⟩ => r.x0
  | ⟨1, _⟩ => r.x1
  | ⟨2, _⟩ => r.x2
  | ⟨3, _⟩ => r.x3
  | ⟨4, _⟩ => r.x4
  | ⟨5, _⟩ => r.x5
  | ⟨6, _⟩ => r.x6
  | ⟨7, _⟩ => r.x7

/-- A register file with one big-integer register replaced. -/
def XRegs.set (r : XRegs) (v : Nat) : XIdx → XRegs
  | ⟨0, _⟩ => { r with x0 := v }
  | ⟨1, _⟩ => { r with x1 := v }
  | ⟨2, _⟩ => { r with x2 := v }
  | ⟨3, _⟩ => { r with x3 := v }
  | ⟨4, _⟩ => { r with x4 := v }
  | ⟨5, _⟩ => { r with x5 := v }
  | ⟨6, _⟩ => { r with x6 := v }
  | ⟨7, _⟩ => { r with x7 := v }

/-- `X[i]` (spec R9). No register is hardwired (spec R20). -/
def State.x (s : State) (i : XIdx) : Nat := s.xs.get i

/-- `X[i] <- v` (spec R9). -/
def State.setX (s : State) (i : XIdx) (v : Nat) : State := { s with xs := s.xs.set v i }

/-- The error writes of spec R176: `STATUS.ERR <- e` and `ERRCMD <- zext_64(CUR)`. Nothing else is saved. -/
def State.raise (s : State) (e : ErrorCode) : State :=
  { s with err := e.code, errcmd := s.cur.setWidth 64 }

/-- The completion writes of spec R177: `STATUS.BUSY <- 0` and `STATUS.DONE <- 1`. -/
def State.complete (s : State) : State := { s with busy := false, done := true }

/-- The one way a command ends (spec R9, R10, R175 to R177). `result` is the state with the command's own writes, or
the error it raises. An error is TAKEN: of the command's own writes none happens (spec R175, precise abort), the error
writes are made on the state before it, and either way the completion writes follow. -/
def commit (s : State) (result : Except ErrorCode State) : Host.Outcome State Fault Refusal :=
  match result with
  | .ok t => .next t.complete
  | .error e => .next (s.raise e).complete

/-- Leaving the error state, `STATUS.ERR <- 0` and nothing else (spec R178, CTRL.ERRCLR). -/
def State.errClear (s : State) : State := { s with err := 0 }

/-- Command acceptance of spec R34, once its condition holds: the latch, DONE and BUSY. -/
def State.accept (s : State) (c : CmdWord) : State := { s with cur := c, done := false, busy := true }

/-- A dropped host write sets the sticky flag OVR and changes nothing else (spec R23, R34). -/
def State.dropWrite (s : State) : State := { s with ovr := true }

/-- Every state element of the block at its reset value (spec R200). What is not the block's stays: the parameters,
the reset pin, what is still to arrive, and the count of drawn free values (log 5, log 6). -/
def State.resetBlock (s : State) : State :=
  { State.resetWith s.cfg with rst := s.rst, arrivals := s.arrivals, draws := s.draws }

/-- Whether a level on the reset input asserts it (spec R200: the polarity is a parameter). -/
def rstAsserts (c : Config) (level : Bool) : Bool := level == c.rstPolarity.activeHigh

/-- The platform puts a level on `RST` (spec R200): while it is asserted the state elements are held at their reset
values, and they hold them when it is released (log 5). Releasing a released input changes nothing. -/
def State.rstLevel (s : State) (level : Bool) : State :=
  if rstAsserts s.cfg level then { s.resetBlock with rst := true }
  else if s.rst then { s.resetBlock with rst := false }
  else s

end Sys2Proof.Machine
end

