-- ==== Sys2Proof/Machine/Flags.lean ====
section
/-! DEFINITION. The flags (spec R32: only those of STATUS), the words the host reads of them, the identification word
and the interrupt line. -/

namespace Sys2Proof.Machine

open Sys2Proof

/-- `STATUS.TRUNC` after a DECOMP of `x` to `n` limbs: set when `x >= 2^(64n)`, and otherwise as it was (spec R137). -/
def truncAfter (old : Bool) (n x : Nat) : Bool := old || decide (2 ^ (64 * n) ≤ x)

/-- A one-bit field at a bit position of a 64-bit register. -/
def flagAt (b : Bool) (position : Nat) : Word := (BitVec.ofBool b).setWidth 64 <<< position

/-- The value a read of STATUS returns (spec R29): BUSY, DONE, TRUNC, OVR in bits 0 to 3, ERR in bits 15:8, every
other bit 0. -/
def State.statusWord (s : State) : Word :=
  flagAt s.busy 0 ||| flagAt s.done 1 ||| flagAt s.trunc 2 ||| flagAt s.ovr 3 ||| s.err.setWidth 64 <<< 8

/-- The value a read of CTRL returns (spec R28): IE in bit 0; SRST, ERRCLR and the reserved bits read 0. -/
def State.ctrlWord (s : State) : Word := flagAt s.ie 0

/-- The value a read of ID returns, `{0x534D4443, 0x0001, LMAX}` (spec R31). -/
def State.idWord (s : State) : Word :=
  (0x534D4443 : BitVec 32) ++ (0x0001 : BitVec 16) ++ BitVec.ofNat 16 s.cfg.lmax

/-- A STATUS write clears each of DONE, TRUNC and OVR whose bit of the data is 1, and changes nothing else
(spec R29). -/
def State.statusWrite (s : State) (d : Word) : State :=
  { s with
    done := s.done && !d[1]
    trunc := s.trunc && !d[2]
    ovr := s.ovr && !d[3] }

/-- The interrupt line: at every instant `IRQ = CTRL.IE AND STATUS.DONE` (spec R180). -/
def State.irq (s : State) : Bool := s.ie && s.done

/-- The interrupt line at the platform: where it goes and its level (spec R181). -/
def State.irqPin (s : State) : IrqRoute × Bool := (s.cfg.smdcIrq, s.irq)

end Sys2Proof.Machine
end

