-- ==== Sys2Proof/Machine/Operands.lean ====
section
/-! DEFINITION. The operand forms and the arithmetic of the commands over natural numbers (spec R6 to R8): limbs, the
immediate, the limb count, the engine's four operations with their errors (spec R100 to R109), and the Barrett
constants (spec R130). -/

namespace Sys2Proof.Machine

open Sys2Proof

/-- The limb primitive of spec R8: `limb(v, j) = floor(v / 2^(64*j)) mod 2^64`. -/
def limb (v j : Nat) : Word := BitVec.ofNat 64 (v / 2 ^ (64 * j))

/-- `v` with limb `j` replaced by `w`, as spec R154 writes it. -/
def replaceLimb (v j : Nat) (w : Word) : Nat :=
  v - (limb v j).toNat * 2 ^ (64 * j) + w.toNat * 2 ^ (64 * j)

/-- The limb count as POW2N, DECOMP and BARRETT read it: they raise InvalidParameters while `N = 0` (spec R22). -/
def limbCount (s : State) : Except ErrorCode Nat :=
  if s.n = 0 then .error .invalidParameters else .ok s.n.toNat

/-- The source's `power_of_two`, bounded by the capacity in bits (spec R100, R172). -/
def powerOfTwo (cap e : Nat) : Except ErrorCode Nat :=
  if cap ≤ e then .error .capacityOverflow else .ok (2 ^ e)

/-- The source's `floor_div` (spec R104). -/
def floorDiv (a b : Nat) : Except ErrorCode Nat :=
  if b = 0 then .error .divisionByZero else .ok (a / b)

/-- The source's `multiply`, exact, bounded by the capacity in bits (spec R106, R172). -/
def multiply (cap a b : Nat) : Except ErrorCode Nat :=
  if 2 ^ cap ≤ a * b then .error .capacityOverflow else .ok (a * b)

/-- The source's `subtract` (spec R108). -/
def subtract (a b : Nat) : Except ErrorCode Nat :=
  if a < b then .error .underflow else .ok (a - b)

/-- The triple `(r, s, t)` of the source (spec R130). -/
structure BarrettConstants where
  r : Nat
  s : Nat
  t : Nat
deriving DecidableEq, Repr

/-- The source's `compute(n, p)` for `n >= 1`, step by step (spec R130, steps 1 to 7), with the two Underflow guards
that can never be true (spec R134). -/
def barrettConstants (n p : Nat) : Except ErrorCode BarrettConstants :=
  if p = 0 then .error .invalidParameters
  else
    let pow64n := 2 ^ (64 * n)
    let pow128n := 2 ^ (128 * n)
    let r := pow64n / p
    let high := pow128n / p
    match subtract high (pow64n * r) with
    | .error e => .error e
    | .ok s =>
      match subtract pow64n (r * p) with
      | .error e => .error e
      | .ok t => .ok ⟨r, s, t⟩

/-- What DECOMP writes to `OBUF` (spec R137): limb `j` of `x` in entry `j` for `j < n`, 0 in the entries above, for
each of the `LMAX` entries. -/
def limbSequence (lmax n x : Nat) : List Word :=
  (List.range lmax).map fun j => if j < n then limb x j else 0

end Sys2Proof.Machine
end

