-- ==== Sys2Proof/Machine/Barrett.lean ====
section
/-! DEFINITION. The BarrettConstantGenerator commands (spec/41): DECOMP and BARRETT. -/

namespace Sys2Proof.Machine

open Sys2Proof

/-- `DECOMP Xs` (spec R137): every entry of OBUF, OCNT, and the sticky TRUNC; `X[s]` is not changed. -/
def execDecomp (rs1 : XIdx) (s : State) : Host.Outcome State Fault Refusal :=
  commit s
    (match limbCount s with
     | .error e => .error e
     | .ok n =>
       .ok { s with
             obuf := limbSequence s.cfg.lmax n (s.x rs1)
             ocnt := s.n
             trunc := truncAfter s.trunc n (s.x rs1) })

/-- The three destination registers of BARRETT, written together at commit (spec R130, step 7). -/
def State.setTriple (s : State) (rd : XIdx) (c : BarrettConstants) : State :=
  ((s.setX rd c.r).setX (rd + 1) c.s).setX (rd + 2) c.t

/-- `BARRETT Xd, Xs` (spec R130), its errors in the order of spec R182: IllegalCommand for `RD > 5` (a word the
decoder never passes on, spec R76; log 10), InvalidParameters for `N = 0`, InvalidParameters for `p = 0`. `p` is read
before any write, so `s` may be any register. -/
def execBarrett (rd rs1 : XIdx) (s : State) : Host.Outcome State Fault Refusal :=
  commit s
    (if 5 < rd.val then .error .illegalCommand
     else
       match limbCount s with
       | .error e => .error e
       | .ok n => (barrettConstants n (s.x rs1)).map (s.setTriple rd))

end Sys2Proof.Machine
end

