-- ==== Sys2Proof/Machine/BigInt.lean ====
section
/-! DEFINITION. The BigIntEngine commands (spec/40): POW2, POW2N, DIV, MUL, SUB, LIMB. Every command reads all its
operands before it writes anything (spec R7), so any register may stand in more than one field. -/

namespace Sys2Proof.Machine

open Sys2Proof

/-- `POW2 Xd, e` (spec R100). -/
def execPow2 (rd : XIdx) (imm : BitVec 16) (s : State) : Host.Outcome State Fault Refusal :=
  commit s ((powerOfTwo s.cfg.cap imm.toNat).map (s.setX rd))

/-- `POW2N Xd, m` (spec R102): InvalidParameters first, then the exponent `64*N*m`. -/
def execPow2n (rd : XIdx) (imm : BitVec 16) (s : State) : Host.Outcome State Fault Refusal :=
  commit s
    (match limbCount s with
     | .error e => .error e
     | .ok n => (powerOfTwo s.cfg.cap (64 * n * imm.toNat)).map (s.setX rd))

/-- `DIV Xd, Xs, Xt` (spec R104). -/
def execDiv (rd rs1 rs2 : XIdx) (s : State) : Host.Outcome State Fault Refusal :=
  commit s ((floorDiv (s.x rs1) (s.x rs2)).map (s.setX rd))

/-- `MUL Xd, Xs, Xt` (spec R106). -/
def execMul (rd rs1 rs2 : XIdx) (s : State) : Host.Outcome State Fault Refusal :=
  commit s ((multiply s.cfg.cap (s.x rs1) (s.x rs2)).map (s.setX rd))

/-- `SUB Xd, Xs, Xt` (spec R108). -/
def execSub (rd rs1 rs2 : XIdx) (s : State) : Host.Outcome State Fault Refusal :=
  commit s ((subtract (s.x rs1) (s.x rs2)).map (s.setX rd))

/-- `LIMB Xs, j` (spec R110): `DOUT <- limb(X[s], j)`, 0 beyond the register; no error, no TRUNC, `N` not read. -/
def execLimb (rs1 : XIdx) (imm : BitVec 16) (s : State) : Host.Outcome State Fault Refusal :=
  commit s (.ok { s with dout := limb (s.x rs1) imm.toNat })

end Sys2Proof.Machine
end

