-- ==== Sys2Proof/Machine/Transfer.lean ====
section
/-! DEFINITION. The configuration and transfer commands (spec/42): NOP, SETN, CLR, MOV, LDL. -/

namespace Sys2Proof.Machine

open Sys2Proof

/-- `NOP` (spec R150): nothing but the completion writes. -/
def execNop (s : State) : Host.Outcome State Fault Refusal := commit s (.ok s)

/-- `SETN k` (spec R151): `N <- k`, or InvalidParameters when `k = 0` or `k > LMAX`. -/
def execSetn (imm : BitVec 16) (s : State) : Host.Outcome State Fault Refusal :=
  commit s
    (if imm.toNat = 0 ∨ s.cfg.lmax < imm.toNat then .error .invalidParameters
     else .ok { s with n := imm })

/-- `CLR Xd` (spec R152). -/
def execClr (rd : XIdx) (s : State) : Host.Outcome State Fault Refusal := commit s (.ok (s.setX rd 0))

/-- `MOV Xd, Xs` (spec R153). -/
def execMov (rd rs1 : XIdx) (s : State) : Host.Outcome State Fault Refusal :=
  commit s (.ok (s.setX rd (s.x rs1)))

/-- `LDL Xd, j` (spec R154): limb `j` of `X[d]` from DIN, the other limbs kept; CapacityOverflow when `j >= K`, even
when `DIN = 0`. -/
def execLdl (rd : XIdx) (imm : BitVec 16) (s : State) : Host.Outcome State Fault Refusal :=
  commit s
    (if s.cfg.k ≤ imm.toNat then .error .capacityOverflow
     else .ok (s.setX rd (replaceLimb (s.x rd) imm.toNat s.din)))

end Sys2Proof.Machine
end

