-- ==== Sys2Proof/Machine/Dispatch.lean ====
section
/-! DEFINITION. Which meaning each command has: the engine's complete step of a decoded command (spec R10). -/

namespace Sys2Proof.Machine

open Sys2Proof

def exec (i : Instr) (s : State) : Host.Outcome State Fault Refusal :=
  match i with
  | .nop => Sys2Proof.Machine.execNop s
  | .setn imm => Sys2Proof.Machine.execSetn imm s
  | .clr rd => Sys2Proof.Machine.execClr rd s
  | .mov rd rs1 => Sys2Proof.Machine.execMov rd rs1 s
  | .ldl rd imm => Sys2Proof.Machine.execLdl rd imm s
  | .pow2 rd imm => Sys2Proof.Machine.execPow2 rd imm s
  | .pow2n rd imm => Sys2Proof.Machine.execPow2n rd imm s
  | .div rd rs1 rs2 => Sys2Proof.Machine.execDiv rd rs1 rs2 s
  | .mul rd rs1 rs2 => Sys2Proof.Machine.execMul rd rs1 rs2 s
  | .sub rd rs1 rs2 => Sys2Proof.Machine.execSub rd rs1 rs2 s
  | .limb rs1 imm => Sys2Proof.Machine.execLimb rs1 imm s
  | .decomp rs1 => Sys2Proof.Machine.execDecomp rs1 s
  | .barrett rd rs1 => Sys2Proof.Machine.execBarrett rd rs1 s

end Sys2Proof.Machine
end

