-- ==== Sys2Proof/Machine/Engine.lean ====
section
/-! DEFINITION. The engine's complete step (spec R10): the latched word is decoded and performed at this step and not
at acceptance (spec R34, R76). -/

namespace Sys2Proof.Machine

open Sys2Proof

/-- The complete step of a latched command: the decoded command, or IllegalCommand (spec R76, R77). -/
def completeCommand (s : State) : Host.Outcome State Fault Refusal :=
  match decode s.cur with
  | .ok i => exec i s
  | .error _ => commit s (.error .illegalCommand)

/-- The engine's turn. The complete step is enabled only while `BUSY = 1` (spec R10), and the engine takes no step
while RST is asserted (spec R200); where it is not enabled nothing happens (spec R190: idle, all state retained). -/
def engineTurn (s : State) : Host.Outcome State Fault Refusal :=
  if s.rst then .next s
  else if s.busy then completeCommand s
  else .next s

end Sys2Proof.Machine
end

