-- ==== Sys2Proof/Machine/Window.lean ====
section
/-! DEFINITION. The host register window (spec/20): its map, its reads and writes, and how the block answers an
access. -/

namespace Sys2Proof.Machine

open Sys2Proof

/-- A register of the window (spec R51). -/
inductive WindowReg where
  | id
  | ctrl
  | status
  | lcount
  | cmd
  | din
  | dout
  | errcmd
  | ocnt
  | obuf (j : Nat)
  | reserved
deriving DecidableEq, Repr

/-- The register map of spec R51: which register lies at an offset that is a multiple of 8. -/
def windowReg (c : Config) (off : Nat) : WindowReg :=
  if off = 0x000 then .id
  else if off = 0x008 then .ctrl
  else if off = 0x010 then .status
  else if off = 0x018 then .lcount
  else if off = 0x020 then .cmd
  else if off = 0x028 then .din
  else if off = 0x030 then .dout
  else if off = 0x038 then .errcmd
  else if off = 0x040 then .ocnt
  else if 0x100 ≤ off ∧ off < 0x100 + 8 * c.lmax then .obuf ((off - 0x100) / 8)
  else .reserved

/-- The value of a register of the window (spec R51, R52): LCOUNT is `zext_64(N)` (spec R30), OCNT has bits 63:16 = 0
(spec R26), CMD and the reserved offsets read 0. -/
def State.windowValue (s : State) : WindowReg → Word
  | .id => s.idWord
  | .ctrl => s.ctrlWord
  | .status => s.statusWord
  | .lcount => s.n.setWidth 64
  | .cmd => 0
  | .din => s.din
  | .dout => s.dout
  | .errcmd => s.errcmd
  | .ocnt => s.ocnt.setWidth 64
  | .obuf j => s.obuf.getD j 0
  | .reserved => 0

/-- The registers whose reads are unspecified while `BUSY = 1` (spec R206). -/
def WindowReg.unspecifiedWhileBusy : WindowReg → Bool
  | .id => false
  | .ctrl => false
  | .status => false
  | .lcount => true
  | .cmd => false
  | .din => false
  | .dout => true
  | .errcmd => true
  | .ocnt => true
  | .obuf _ => true
  | .reserved => false

/-- A permitted read (spec R55, R56, R206): it changes no register; it answers the register's value, or, for a result
register while `BUSY = 1`, the next free value (log 3). -/
def State.readRegister (s : State) (r : WindowReg) : State :=
  if s.busy && r.unspecifiedWhileBusy then
    { s with resp := some (.readData (Config.busyRead s.draws)), draws := s.draws + 1 }
  else { s with resp := some (.readData (s.windowValue r)) }

/-- A CTRL write (spec R28): with SRST = 1 the soft reset, and the rest of the write is ignored (spec R201); otherwise
IE takes bit 0 and, with ERRCLR = 1, ERR is cleared (spec R178). -/
def State.ctrlWrite (s : State) (d : Word) : State :=
  if d[1] then s.resetBlock
  else if d[2] then { s.errClear with ie := d[0] }
  else { s with ie := d[0] }

/-- A CMD write (spec R34): accepted when `BUSY = 0` and `ERR = 0`, else dropped; bits 63:32 of the data are ignored
(spec R70). -/
def State.cmdWrite (s : State) (d : Word) : State :=
  if s.busy = false ∧ s.err = 0 then s.accept (d.setWidth 32) else s.dropWrite

/-- A DIN write (spec R23): dropped while `BUSY = 1`. -/
def State.dinWrite (s : State) (d : Word) : State :=
  if s.busy then s.dropWrite else { s with din := d }

/-- The effect of a permitted write on the block (spec R51, R52, R56): a write to a read-only register or a reserved
offset has none. -/
def State.windowWrite (s : State) (r : WindowReg) (d : Word) : State :=
  match r with
  | .id => s
  | .ctrl => s.ctrlWrite d
  | .status => s.statusWrite d
  | .lcount => s
  | .cmd => s.cmdWrite d
  | .din => s.dinWrite d
  | .dout => s
  | .errcmd => s
  | .ocnt => s
  | .obuf _ => s
  | .reserved => s

/-- A permitted write and its response: the write itself completes normally (spec R52, R201; log 4). -/
def State.writeRegister (s : State) (r : WindowReg) (d : Word) : State :=
  { s.windowWrite r d with resp := some .writeDone }

/-- Whether an access is permitted: 64 bits wide, at an offset that is a multiple of 8 (spec R54). -/
def permitted (off bits : Nat) : Bool := decide (bits = 64) && decide (off % 8 = 0)

/-- A refused access (spec R54): a bus error response with read data 0, and no state change. -/
def State.refuseAccess (s : State) : State := { s with resp := some (.busError 0) }

/-- The offset of a platform address inside the window mapped at `SMDC_BASE` (spec R50). -/
def windowOffset (c : Config) (addr : Nat) : Option Nat :=
  if c.smdcBase ≤ addr ∧ addr < c.smdcBase + 4096 then some (addr - c.smdcBase) else none

/-- A host read that reaches the port (spec R54); an address outside the window is no access of the block (log 7). -/
def hostRead (addr bits : Nat) (s : State) : Host.Outcome State Fault Refusal :=
  match windowOffset s.cfg addr with
  | none => .fault (.outsideWindow addr)
  | some off =>
    if permitted off bits then .next (s.readRegister (windowReg s.cfg off)) else .next s.refuseAccess

/-- A host write that reaches the port (spec R54); see `hostRead`. -/
def hostWrite (addr bits : Nat) (d : Word) (s : State) : Host.Outcome State Fault Refusal :=
  match windowOffset s.cfg addr with
  | none => .fault (.outsideWindow addr)
  | some off =>
    if permitted off bits then .next (s.writeRegister (windowReg s.cfg off) d) else .next s.refuseAccess

/-- A host access while RST is asserted: the block answers none (spec R200; log 5). -/
def State.unanswered (s : State) : State := { s with resp := none }

/-- Byte lane `k` of a register's value, bits `8k+7 : 8k`: fixed little-endian (spec R54; log 19). -/
def byteLane (v : Word) (k : Fin 8) : BitVec 8 := v.extractLsb' (8 * k.val) 8

/-- The register value that eight byte lanes carry, lane 0 least significant (spec R54; log 19). -/
def ofByteLanes (b0 b1 b2 b3 b4 b5 b6 b7 : BitVec 8) : Word := b7 ++ b6 ++ b5 ++ b4 ++ b3 ++ b2 ++ b1 ++ b0

end Sys2Proof.Machine
end

