-- ==== Sys2Proof/Machine/Arrivals.lean ====
section
/-! DEFINITION. What one arrival does to the block: a host access, the engine's turn, or a level on RST (spec R10, R55,
R183, R200; log 2, log 5), and how the state takes its next arrival. -/

namespace Sys2Proof.Machine

open Sys2Proof

/-- One arrival, taken by a state from whose list it is already removed. -/
def arrive (a : Arrival) (s : State) : Host.Outcome State Fault Refusal :=
  match a with
  | .read addr bits => if s.rst then .next s.unanswered else hostRead addr bits s
  | .write addr bits data => if s.rst then .next s.unanswered else hostWrite addr bits data s
  | .engineTurn => engineTurn s
  | .rst level => .next (s.rstLevel level)

/-- The next arrival is taken; with nothing left to arrive the turn is the engine's, so an enabled complete step is
always taken in the end (spec R210, R211; log 2). -/
def nextArrival (s : State) : Host.Outcome State Fault Refusal :=
  match s.arrivals with
  | [] => arrive .engineTurn s
  | a :: rest => arrive a { s with arrivals := rest }

/-- A state whose very next step is the complete step of the command word `c`: the command accepted as by a CMD write
(spec R34), RST released, and the engine's turn the next arrival (log 8). -/
def State.withCommand (s : State) (c : CmdWord) : State :=
  { s.accept c with rst := false, arrivals := .engineTurn :: s.arrivals }

end Sys2Proof.Machine
end

