-- ==== Sys2Proof/Machine/Step.lean ====
section
/-! DEFINITION. One step of the machine: one arrival is taken (spec R10, R55), and the placing of one command where the
next step runs it (log 8). -/

namespace Sys2Proof.Machine

open Sys2Proof

/-- One step: the next arrival of the state is taken (log 2). -/
def step (s : State) : Host.Outcome State Fault Refusal := nextArrival s

/-- The state with a table row's command latched and the engine's turn next (log 8): the block fetches nothing; a
command reaches it by a CMD write (spec R34, R35). -/
def State.withFetchWord (s : State) (nbits w : Nat) : State := s.withCommand (tableWord nbits w)

end Sys2Proof.Machine
end

