-- ==== Sys2Proof/Machine/Assembler.lean ====
section
/-! DEFINITION. The assembler syntax of spec R78: a mnemonic, then its operands separated by commas, destination first;
mnemonics and register names are case-insensitive; an immediate is a decimal or `0x` hexadecimal numeral in
`[0, 65535]`. Blanks and the reading of a numeral are log 14. -/

namespace Sys2Proof.Machine

open Sys2Proof

/-- Why a line of assembly is refused: an assembly error is no command (spec R78). -/
inductive AsmError where
  /-- The mnemonic is none of the thirteen. -/
  | unknownMnemonic
  /-- The operands are not those of the mnemonic's form. -/
  | wrongOperands
  /-- An immediate outside `[0, 65535]`. -/
  | immediateRange
deriving DecidableEq, Repr

/-- An operand as it is written. -/
inductive AsmOperand where
  | reg (r : XIdx)
  | imm (v : Nat)
deriving DecidableEq, Repr

/-- A blank between the parts of a line. -/
def isBlank (c : Char) : Bool := c == ' ' || c == '\t'

/-- A text without its blanks at either end. -/
def trimBlanks (cs : List Char) : List Char := ((cs.dropWhile isBlank).reverse.dropWhile isBlank).reverse

/-- A text cut at its commas. -/
def splitCommas : List Char → List (List Char)
  | [] => [[]]
  | c :: cs =>
    if c = ',' then [] :: splitCommas cs
    else
      match splitCommas cs with
      | [] => [[c]]
      | part :: parts => (c :: part) :: parts

/-- The value of a digit in a base of at most 16, capitals and small letters alike. -/
def digitValue (base : Nat) (c : Char) : Option Nat :=
  let v :=
    if '0' ≤ c ∧ c ≤ '9' then c.toNat - '0'.toNat
    else if 'a' ≤ c ∧ c ≤ 'f' then c.toNat - 'a'.toNat + 10
    else if 'A' ≤ c ∧ c ≤ 'F' then c.toNat - 'A'.toNat + 10
    else base
  if v < base then some v else none

/-- A numeral read digit by digit, after the value of the digits before it. -/
def readDigits (base : Nat) : Nat → List Char → Option Nat
  | acc, [] => some acc
  | acc, c :: cs =>
    match digitValue base c with
    | none => none
    | some d => readDigits base (acc * base + d) cs

/-- A decimal or `0x` hexadecimal numeral (spec R78). -/
def readNumeral : List Char → Option Nat
  | [] => none
  | '0' :: 'x' :: [] => none
  | '0' :: 'x' :: cs => readDigits 16 0 cs
  | cs => readDigits 10 0 cs

/-- An operand: `X0` to `X7` in either case, or a numeral (spec R78). -/
def readOperand (cs : List Char) : Option AsmOperand :=
  match cs with
  | ['X', d] => (digitValue 8 d).map fun v => .reg (Fin.ofNat 8 v)
  | ['x', d] => (digitValue 8 d).map fun v => .reg (Fin.ofNat 8 v)
  | _ => (readNumeral cs).map .imm

/-- The operands of a line: what follows the mnemonic, cut at commas; none where nothing follows. -/
def readOperands (cs : List Char) : Option (List AsmOperand) :=
  match trimBlanks cs with
  | [] => some []
  | cs => (splitCommas cs).mapM fun part => readOperand (trimBlanks part)

/-- A command with an immediate: an immediate outside 16 bits is an assembly error (spec R78). -/
def withImm (v : Nat) (f : BitVec 16 → Instr) : Except AsmError Instr :=
  if v ≤ 65535 then .ok (f (BitVec.ofNat 16 v)) else .error .immediateRange

/-- The forms `mnemonic Xd, imm` (spec R78, DI and SI). -/
def asmRegImm (f : XIdx → BitVec 16 → Instr) : List AsmOperand → Except AsmError Instr
  | [.reg r, .imm v] => withImm v (f r)
  | _ => .error .wrongOperands

/-- The forms `mnemonic X` (spec R78, D and S). -/
def asmReg (f : XIdx → Instr) : List AsmOperand → Except AsmError Instr
  | [.reg r] => .ok (f r)
  | _ => .error .wrongOperands

/-- The forms `mnemonic Xd, Xs` (spec R78, DS). -/
def asmRegReg (f : XIdx → XIdx → Instr) : List AsmOperand → Except AsmError Instr
  | [.reg d, .reg s] => .ok (f d s)
  | _ => .error .wrongOperands

/-- The forms `mnemonic Xd, Xs, Xt` (spec R78, R). -/
def asmRegRegReg (f : XIdx → XIdx → XIdx → Instr) : List AsmOperand → Except AsmError Instr
  | [.reg d, .reg s, .reg t] => .ok (f d s t)
  | _ => .error .wrongOperands

/-- The forms of spec R78, by mnemonic in capitals. -/
def asmForm (mnemonic : String) (ops : List AsmOperand) : Except AsmError Instr :=
  match mnemonic with
  | "NOP" => match ops with
    | [] => .ok .nop
    | _ => .error .wrongOperands
  | "SETN" => match ops with
    | [.imm v] => withImm v .setn
    | _ => .error .wrongOperands
  | "CLR" => asmReg .clr ops
  | "MOV" => asmRegReg .mov ops
  | "LDL" => asmRegImm .ldl ops
  | "POW2" => asmRegImm .pow2 ops
  | "POW2N" => asmRegImm .pow2n ops
  | "DIV" => asmRegRegReg .div ops
  | "MUL" => asmRegRegReg .mul ops
  | "SUB" => asmRegRegReg .sub ops
  | "LIMB" => asmRegImm .limb ops
  | "DECOMP" => asmReg .decomp ops
  | "BARRETT" => asmRegReg .barrett ops
  | _ => .error .unknownMnemonic

/-- One line of assembly as a command term (spec R78). A BARRETT of `X6` or `X7` is a line too: its word is illegal
and the block says so at its complete step (spec R76; vector B-E3). -/
def assemble (line : List Char) : Except AsmError Instr :=
  let text := trimBlanks line
  let mnemonic := text.takeWhile fun c => !isBlank c
  match readOperands (text.dropWhile fun c => !isBlank c) with
  | none => .error .wrongOperands
  | some ops => asmForm (String.ofList (mnemonic.map Char.toUpper)) ops

/-- The command word of one line of assembly (spec R78, R80). -/
def assembleWord (line : List Char) : Except AsmError CmdWord := (assemble line).map encode

end Sys2Proof.Machine
end

