-- ==== Sys2Proof/Machine/HostSequence.lean ====
section
/-! DEFINITION. The host-sequence pseudo-instructions of spec R79 as programs of a host, and how a host performs one
against the block: it reads the answers, and a `WAIT` ends at the first STATUS read that shows BUSY = 0 (log 15). -/

namespace Sys2Proof.Machine

open Sys2Proof

/-- `W(off, v)`, which is `MemWrite(off, 8, v)` (spec R9, R79). -/
def hostW (c : Config) (off : Nat) (v : Word) : Arrival := .write (c.smdcBase + off) 64 v

/-- `R(off)`, which is `MemRead(off, 8)` (spec R9, R79). -/
def hostR (c : Config) (off : Nat) : Arrival := .read (c.smdcBase + off) 64

/-! ### The programs -/

/-- One action of a host program (spec R79). -/
inductive HostAction where
  /-- `W(off, v)`. -/
  | write (off : Nat) (v : Word)
  /-- `R(off)`, its value kept. -/
  | read (off : Nat)
  /-- `WAIT`: repeat `R(0x010)` until bit 0 (BUSY) is 0. -/
  | wait
deriving DecidableEq, Repr

/-- `ISSUE c` (spec R79). -/
def issue (word : CmdWord) : List HostAction := [.write 0x020 (word.setWidth 64), .wait]

/-- The loads of the limbs `js` of `v` into `X[rd]`: for each `j`, `W(0x028, limb(v, j)); ISSUE LDL Xd, j` (spec R79,
R155). Where `LDL Xd, j` is an assembly error (`j` above 65535, spec R78) there is no program (log 20). -/
def loadLimbs (rd : XIdx) (v : Nat) : List Nat → Except AsmError (List HostAction)
  | [] => .ok []
  | j :: js =>
    match withImm j (.ldl rd) with
    | .error e => .error e
    | .ok ldl => (loadLimbs rd v js).map fun rest => .write 0x028 (limb v j) :: issue (encode ldl) ++ rest

/-- `ISSUE CLR Xd`, then the loads of the limbs `js` of `v` (spec R155). -/
def clearAndLoad (rd : XIdx) (v : Nat) (js : List Nat) : Except AsmError (List HostAction) :=
  (loadLimbs rd v js).map (issue (encode (.clr rd)) ++ ·)

/-- `LOADV Xd, v` with `v < 2^(64*m)` (spec R79): the limbs loaded are the nonzero ones, in rising order. -/
def loadv (rd : XIdx) (v m : Nat) : Except AsmError (List HostAction) :=
  clearAndLoad rd v ((List.range m).filter fun j => limb v j ≠ 0)

/-- `READV Xs -> L[0..n-1]` (spec R79): the kept values are `L`. -/
def readv (rs1 : XIdx) (n : Nat) : List HostAction :=
  issue (encode (.decomp rs1)) ++ (List.range n).map fun j => .read (0x100 + 8 * j)

/-- `CHECK` (spec R79): one STATUS read, its value kept. -/
def check : List HostAction := [.read 0x010]

/-- What the host concludes from CHECK's STATUS value: the sequence succeeded if ERR is 0 and OVR is 0 (spec R79). -/
def checkSucceeded (status : Word) : Bool := decide (status.extractLsb' 8 8 = 0) && !status[3]

/-- What the host checks to show that one command ran and succeeded (spec R205): OVR was 0 before the write and is
still 0, DONE is 1, and ERR is 0. -/
def commandSucceeded (before after : Word) : Bool :=
  !before[3] && !after[3] && after[1] && decide (after.extractLsb' 8 8 = 0)

/-! ### A host performing a program -/

/-- A host under way: the actions left, the data its kept reads returned so far, and the block. -/
structure HostRun where
  todo : List HostAction
  /-- The data of each kept read, oldest first; none where the block answered nothing (spec R200, log 5). -/
  kept : List (Option Word)
  block : State
deriving DecidableEq, Repr

/-- What comes next at the block's port: the host's next access, or something else that reaches the block, such as the
engine's turn (spec R10, R55: every order is some list of moves). -/
inductive Move where
  | host
  | other (a : Arrival)
deriving DecidableEq, Repr

/-- The access of an action (spec R79). -/
def HostAction.access (c : Config) : HostAction → Arrival
  | .write off v => hostW c off v
  | .read off => hostR c off
  | .wait => hostR c 0x010

/-- The read data that a response carries (spec R54). -/
def Response.data : Response → Option Word
  | .readData d => some d
  | .writeDone => none
  | .busError d => some d

/-- The data the block's last answer carries. -/
def State.answer (s : State) : Option Word := s.resp.bind Response.data

/-- Whether a STATUS value ends a WAIT: its bit 0 (BUSY) is 0 (spec R79). A read without an answer ends none (log 15). -/
def endsWait : Option Word → Bool
  | none => false
  | some status => !status[0]

/-- The host after its access for the action `a` was performed, the block being `t` then: a WAIT that is not over is
still the next action (spec R79). -/
def HostRun.after (r : HostRun) (a : HostAction) (rest : List HostAction) (t : State) : HostRun :=
  match a with
  | .write _ _ => { r with todo := rest, block := t }
  | .read _ => { todo := rest, kept := r.kept ++ [t.answer], block := t }
  | .wait => { r with todo := if endsWait t.answer then rest else .wait :: rest, block := t }

/-- The block takes an arrival ahead of those already waiting, by one step, and `k` is done with the next state. -/
def State.takeThen (s : State) (a : Arrival) (k : State → HostRun) : Host.Outcome HostRun Fault Refusal :=
  match step { s with arrivals := a :: s.arrivals } with
  | .next t => .next (k t)
  | .fault f => .fault f
  | .refused f => .refused f

/-- One move. A host whose program is over accesses nothing. -/
def HostRun.move (r : HostRun) : Move → Host.Outcome HostRun Fault Refusal
  | .other a => r.block.takeThen a fun t => { r with block := t }
  | .host =>
    match r.todo with
    | [] => .next r
    | a :: rest => r.block.takeThen (a.access r.block.cfg) (r.after a rest)

/-- The moves of a list, one after another. -/
def HostRun.moves : List Move → HostRun → Host.Outcome HostRun Fault Refusal
  | [], r => .next r
  | m :: ms, r =>
    match r.move m with
    | .next r' => HostRun.moves ms r'
    | .fault f => .fault f
    | .refused f => .refused f

/-- A host at the start of a program. -/
def State.hostAt (s : State) (program : List HostAction) : HostRun := { todo := program, kept := [], block := s }

end Sys2Proof.Machine
end

