-- ==== Sys2Proof/Safety.lean ====
section
/-! DEFINITION. What a safe run is, and the terms the statements use: the invariant of the machine, the spec's table of
errors, the shape of a completion, what the next arrival is, and the command sequences of spec R105, R136 and R155. -/

namespace Sys2Proof.Machine

open Sys2Proof

/-! ### The invariant -/

/-- Every big-integer register is below `2^CAP` (spec R6, R20). -/
abbrev State.XBounded (s : State) : Prop := ∀ r : XIdx, s.x r < 2 ^ s.cfg.cap

/-- `N` is unset or `1..LMAX` (spec R22). -/
abbrev State.NLegal (s : State) : Prop := s.n.toNat ≤ s.cfg.lmax

/-- OBUF has `LMAX` entries, OCNT counts some of them, and the entries above the count are 0 (spec R25, R26, R137). -/
abbrev State.ObufLegal (s : State) : Prop :=
  s.obuf.length = s.cfg.lmax ∧ s.ocnt.toNat ≤ s.cfg.lmax ∧
    ∀ j < s.cfg.lmax, s.ocnt.toNat ≤ j → s.obuf.getD j 0 = 0

/-- ERR holds no reserved code and ERRCMD a zero-extended command word (spec R171, R176). -/
abbrev State.ErrLegal (s : State) : Prop := s.err.toNat ≤ 5 ∧ s.errcmd.toNat < 2 ^ 32

/-- While a command is in flight there is no error and DONE is clear: acceptance needs `ERR = 0` and clears DONE
(spec R34). -/
abbrev State.BusyClean (s : State) : Prop := s.busy = true → s.err = 0 ∧ s.done = false

/-- While RST is asserted every state element is held at its reset value (spec R200, log 5). -/
abbrev State.RstHeld (s : State) : Prop :=
  s.rst = true →
    { s with resp := none } =
      { State.resetWith s.cfg with rst := true, arrivals := s.arrivals, draws := s.draws }

/-- The machine's invariant: legal parameters and every register within what the spec says it can hold. -/
abbrev State.Wf (s : State) : Prop :=
  s.cfg.Valid ∧ s.XBounded ∧ s.NLegal ∧ s.ObufLegal ∧ s.ErrLegal ∧ s.BusyClean ∧ s.RstHeld

/-! ### How a command ends -/

/-- The completion writes alone (spec R177): the end of a command that wrote nothing. That CUR keeps the command then is
the model's deduction (log 12), here and in `Errored` and `WroteX`: R33 leaves its value open while BUSY = 0. -/
abbrev Completed (s : State) : State := { s with busy := false, done := true }

/-- The end of an erroring command with a code: the error writes, the completion writes, nothing else (spec R175 to
R177). -/
abbrev Errored (s : State) (code : BitVec 8) : State :=
  { s with err := code, errcmd := s.cur.setWidth 64, busy := false, done := true }

/-- `t` is `s` after a command that wrote `v` to `X[rd]`: every other register, and everything else but the
completion writes, is as it was. -/
abbrev WroteX (s t : State) (rd : XIdx) (v : Nat) : Prop :=
  (∀ r : XIdx, t.x r = if r = rd then v else s.x r) ∧ { t with xs := s.xs } = Completed s

/-- The error codes of spec R171 by command, in the order of checks of spec R182; 0 for no error. `IllegalCommand`
for a word that decodes to nothing is not here: it is no command. -/
def errorCause (i : Instr) (s : State) : BitVec 8 :=
  match i with
  | .nop => 0x00
  | .setn k => if k.toNat = 0 ∨ s.cfg.lmax < k.toNat then 0x02 else 0x00
  | .clr _ => 0x00
  | .mov _ _ => 0x00
  | .ldl _ j => if 2 * s.cfg.lmax + 1 ≤ j.toNat then 0x05 else 0x00
  | .pow2 _ e => if 64 * (2 * s.cfg.lmax + 1) ≤ e.toNat then 0x05 else 0x00
  | .pow2n _ m =>
    if s.n.toNat = 0 then 0x02
    else if 64 * (2 * s.cfg.lmax + 1) ≤ 64 * s.n.toNat * m.toNat then 0x05 else 0x00
  | .div _ _ t => if s.x t = 0 then 0x03 else 0x00
  | .mul _ a b => if 2 ^ (64 * (2 * s.cfg.lmax + 1)) ≤ s.x a * s.x b then 0x05 else 0x00
  | .sub _ a b => if s.x a < s.x b then 0x04 else 0x00
  | .limb _ _ => 0x00
  | .decomp _ => if s.n.toNat = 0 then 0x02 else 0x00
  | .barrett d p =>
    if 5 < d.val then 0x01
    else if s.n.toNat = 0 then 0x02
    else if s.x p = 0 then 0x02
    else 0x00

/-! ### The encoding, as spec R7, R71 and R75 write it -/

/-- The register number at bits `lo+2 : lo` of a word: `floor(c / 2^lo) mod 8` (spec R7). -/
def regAt (c : CmdWord) (lo : Nat) : XIdx := Fin.ofNat 8 (c.toNat / 2 ^ lo)

/-- The immediate at bits 15:0 of a word: `c mod 2^16` (spec R7). -/
def immAt (c : CmdWord) : BitVec 16 := BitVec.ofNat 16 c.toNat

/-- The rows (OP, match, mask) of spec R75. -/
def opcodeMap : List (BitVec 8 × CmdWord × CmdWord) :=
  [(0x00, 0x00000000, 0xFFFFFFFF), (0x01, 0x01000000, 0xFFFF0000), (0x02, 0x02000000, 0xFF8FFFFF),
   (0x03, 0x03000000, 0xFF88FFFF), (0x04, 0x04000000, 0xFF8F0000), (0x08, 0x08000000, 0xFF8F0000),
   (0x09, 0x09000000, 0xFF8F0000), (0x0A, 0x0A000000, 0xFF888FFF), (0x0B, 0x0B000000, 0xFF888FFF),
   (0x0C, 0x0C000000, 0xFF888FFF), (0x10, 0x10000000, 0xFFF80000), (0x11, 0x11000000, 0xFFF8FFFF),
   (0x18, 0x18000000, 0xFF88FFFF)]

/-- The word matches some row and is no BARRETT word with `RD > 5` (spec R76). -/
def LegalWord (c : CmdWord) : Prop :=
  (∃ row ∈ opcodeMap, c &&& row.2.2 = row.2.1) ∧
    ¬(c &&& 0xFF88FFFF = 0x18000000 ∧ 5 < c.toNat / 2 ^ 20 % 8)

/-! ### What a step does next -/

/-- The state with its next arrival taken off the list. -/
abbrev State.taken (s : State) : State := { s with arrivals := s.arrivals.tail }

/-- The next arrival; with none left it is the engine's turn (log 2). -/
def State.nextUp (s : State) : Arrival := s.arrivals.headD .engineTurn

/-- The next step is the complete step of the latched command (spec R10, R200). -/
abbrev State.Completing (s : State) : Prop := s.nextUp = .engineTurn ∧ s.rst = false ∧ s.busy = true

/-- The next step is a permitted write of `d` at a window offset, RST being released (spec R51, R54). -/
abbrev State.WritesWindow (s : State) (off : Nat) (d : Word) : Prop :=
  s.nextUp = .write (s.cfg.smdcBase + off) 64 d ∧ s.rst = false

/-- The next step is a permitted read at a window offset, RST being released (spec R51, R54). -/
abbrev State.ReadsWindow (s : State) (off : Nat) : Prop :=
  s.nextUp = .read (s.cfg.smdcBase + off) 64 ∧ s.rst = false

/-- The next step is a reset: RST asserted, RST released after being asserted (spec R200), or a CTRL write with SRST = 1
(spec R201). -/
def State.Resetting (s : State) : Prop :=
  (∃ level, s.nextUp = .rst level ∧ (level = s.cfg.rstPolarity.activeHigh ∨ s.rst = true)) ∨
    ∃ d, s.WritesWindow 0x008 d ∧ d[1] = true

/-- Every host access still to arrive is addressed to the window (spec R50; log 7). -/
def Arrival.inWindow (c : Config) : Arrival → Bool
  | .read addr _ => decide (c.smdcBase ≤ addr ∧ addr < c.smdcBase + 4096)
  | .write addr _ _ => decide (c.smdcBase ≤ addr ∧ addr < c.smdcBase + 4096)
  | .engineTurn => true
  | .rst _ => true

/-! ### Command sequences -/

/-- Commands performed one after another, each at its complete step. -/
def execAll : List Instr → State → Host.Outcome State Fault Refusal
  | [], s => .next s
  | i :: rest, s =>
    match exec i s with
    | .next t => execAll rest t
    | .fault r => .fault r
    | .refused r => .refused r

/-- The primitive expansion of BARRETT in scratch registers `a, b, c` (spec R136). -/
def barrettExpansion (d p a b c : XIdx) : List Instr :=
  [.pow2n a 1, .pow2n b 2, .div d a p, .div b b p, .mul c a d, .sub (d + 1) b c, .mul c d p, .sub (d + 2) a c]

end Sys2Proof.Machine
end

