-- ==== Sys2Proof/Certificates/Slice0/Obligations.lean ====
section
/-! DEFINITION. The statements for the provers, from the numbered rules of spec/. `log <n>` is notes/assumptions/<n>.md.
A statement about every state holds for every value of the open parameters, which are data of the state (log 1). A
step takes one arrival off `arrivals` (`State.taken`, log 2) and writes the answer to a host access to `resp` (log 4):
these two are the model's form of a host access, not elements of the block. A frame that keeps CUR at a completion
(`Completed`, `Errored`, `WroteX`) or while `BUSY = 0` is the model's in that one field (log 12): R33 leaves its value
open then. -/

open Sys2Proof Sys2Proof.Machine

/-! ### Encoding -/

/-- Decoding an encoded well-formed command gives it back (spec R71, R72, R76, R80), every operand at every value. -/
def Obligations.DecodeOfEncode : Prop :=
  ∀ i : Instr, i.wellFormed = true → decode (encode i) = .ok i

/-- A word that decodes is the encoding of what it decodes to (spec R73, R76, R80): no bit of a legal word is free. -/
def Obligations.EncodeOfDecode : Prop :=
  ∀ (c : CmdWord) (i : Instr), decode c = .ok i → i.wellFormed = true ∧ encode i = c

/-- A word decodes exactly when it matches a row of spec R75 and is no BARRETT word with `RD > 5` (spec R76), and the
row is the one of its opcode field. -/
def Obligations.LegalWordsDecode : Prop :=
  ∀ c : CmdWord,
    ((∃ i, decode c = .ok i) ↔ LegalWord c) ∧
      ∀ i, decode c = .ok i → i.opcode.toNat = c.toNat / 2 ^ 24

/-- The example of each form in spec R78, and the worked example of R80: the line assembles to the word, and the word
decodes to the command. -/
def Obligations.SpecExamplesDecode : Prop :=
  ∀ e ∈ ([("NOP".toList, 0x00000000, .nop), ("SETN 2".toList, 0x01000002, .setn 2),
      ("CLR X4".toList, 0x02400000, .clr 4), ("BARRETT X1, X0".toList, 0x18100000, .barrett 1 0),
      ("POW2N X2, 2".toList, 0x09200002, .pow2n 2 2), ("LIMB X3, 1".toList, 0x10030001, .limb 3 1),
      ("DECOMP X1".toList, 0x11010000, .decomp 1), ("DIV X3, X1, X0".toList, 0x0A310000, .div 3 1 0),
      ("SUB X2, X4, X5".toList, 0x0C245000, .sub 2 4 5)] : List (List Char × CmdWord × Instr)),
    assembleWord e.1 = .ok e.2.1 ∧ decode e.2.1 = .ok e.2.2 ∧ encode e.2.2 = e.2.1

/-! ### The engine's complete step -/

/-- A step whose next arrival is the engine's turn performs the latched command (spec R10, R76): while `BUSY = 1` and
RST is released it is `exec` of the decoded command, on the state with the turn taken off its arrivals; while
`BUSY = 0` nothing happens. -/
def Obligations.StepRunsDecodedCommand : Prop :=
  (∀ (s : State) (i : Instr), s.Completing → decode s.cur = .ok i → step s = exec i s.taken) ∧
    ∀ s : State, s.nextUp = .engineTurn → s.busy = false → step s = .next s.taken

/-- Spec R77: a reserved opcode, a listed opcode whose row's fixed-zero bits are broken, and a BARRETT word with
`RD > 5` are illegal; such a word completes with IllegalCommand and changes nothing else; the only word of NOP is the
all-zero word. -/
def Obligations.IllegalWordsRaise : Prop :=
  (∀ c : CmdWord,
      ((∀ row ∈ opcodeMap, row.1.toNat ≠ c.toNat / 2 ^ 24) ∨
          (∃ row ∈ opcodeMap, row.1.toNat = c.toNat / 2 ^ 24 ∧ c &&& row.2.2 ≠ row.2.1) ∨
          (c.toNat / 2 ^ 24 = 0x18 ∧ 5 < c.toNat / 2 ^ 20 % 8)) →
        (∀ i, decode c ≠ .ok i) ∧
          ∀ s : State, s.Completing → s.cur = c → step s = .next (Errored s.taken 0x01)) ∧
    (∀ op : BitVec 8,
      (∀ row ∈ opcodeMap, row.1 ≠ op) ↔
        (0x05 ≤ op.toNat ∧ op.toNat ≤ 0x07) ∨ (0x0D ≤ op.toNat ∧ op.toNat ≤ 0x0F) ∨
          (0x12 ≤ op.toNat ∧ op.toNat ≤ 0x17) ∨ 0x19 ≤ op.toNat) ∧
    ∀ c : CmdWord, decode c = .ok .nop ↔ c = 0

/-- Every complete step, successful or erroring, of a legal or an illegal word, answers a next state with `BUSY = 0`
and `DONE = 1` (spec R177); it leaves the parameters, DIN, IE, OVR, CUR, RST, the bus response and the drawn free
values as they were, and takes one arrival. DIN, IE, OVR and CUR have no completion among what writes them (spec R23,
R28, R32, R34). That CUR keeps its value after the completion is the model's deduction (log 12): R33 lets it hold any
value while `BUSY = 0`. -/
def Obligations.EveryCompleteStepEnds : Prop :=
  ∀ s : State, s.Completing →
    ∃ t, step s = .next t ∧ t.busy = false ∧ t.done = true ∧
      t.cfg = s.cfg ∧ t.din = s.din ∧ t.ie = s.ie ∧ t.ovr = s.ovr ∧ t.cur = s.cur ∧ t.rst = s.rst ∧
      t.arrivals = s.arrivals.tail ∧ t.resp = s.resp ∧ t.draws = s.draws

/-! ### The commands, one by one -/

/-- NOP (spec R150): the all-zero word, and nothing but the completion writes. -/
def Obligations.NopCommand : Prop :=
  (∀ c : CmdWord, c &&& 0xFFFFFFFF = 0x00000000 → decode c = .ok .nop) ∧
    (∀ c : CmdWord, c.toNat / 2 ^ 24 = 0 → c.toNat % 2 ^ 24 ≠ 0 → ∀ s : State, s.Completing → s.cur = c →
      step s = .next (Errored s.taken 0x01)) ∧
    ∀ s : State, exec .nop s = .next (Completed s)

/-- SETN (spec R151): `N <- k` for `1 <= k <= LMAX` and nothing else; InvalidParameters otherwise. -/
def Obligations.SetnCommand : Prop :=
  (∀ c : CmdWord, c &&& 0xFFFF0000 = 0x01000000 → decode c = .ok (.setn (immAt c))) ∧
    (∀ (k : BitVec 16) (s : State), 1 ≤ k.toNat → k.toNat ≤ s.cfg.lmax →
      exec (.setn k) s = .next { Completed s with n := k }) ∧
    ∀ (k : BitVec 16) (s : State), k.toNat = 0 ∨ s.cfg.lmax < k.toNat →
      exec (.setn k) s = .next (Errored s 0x02)

/-- CLR (spec R152). -/
def Obligations.ClrCommand : Prop :=
  (∀ c : CmdWord, c &&& 0xFF8FFFFF = 0x02000000 → decode c = .ok (.clr (regAt c 20))) ∧
    ∀ (d : XIdx) (s : State), ∃ t, exec (.clr d) s = .next t ∧ WroteX s t d 0

/-- MOV (spec R153); `MOV Xd, Xd` changes nothing. -/
def Obligations.MovCommand : Prop :=
  (∀ c : CmdWord, c &&& 0xFF88FFFF = 0x03000000 → decode c = .ok (.mov (regAt c 20) (regAt c 16))) ∧
    (∀ (d p : XIdx) (s : State), ∃ t, exec (.mov d p) s = .next t ∧ WroteX s t d (s.x p)) ∧
    ∀ (d : XIdx) (s : State), exec (.mov d d) s = .next (Completed s)

/-- LDL (spec R154): the rule's formula, which replaces limb `j` by DIN and keeps the other limbs; CapacityOverflow for
`j >= K`, even when `DIN = 0`. -/
def Obligations.LdlCommand : Prop :=
  (∀ c : CmdWord, c &&& 0xFF8F0000 = 0x04000000 → decode c = .ok (.ldl (regAt c 20) (immAt c))) ∧
    (∀ (d : XIdx) (j : BitVec 16) (s : State), j.toNat < 2 * s.cfg.lmax + 1 →
      ∃ t, exec (.ldl d j) s = .next t ∧
        WroteX s t d
          (s.x d - s.x d / 2 ^ (64 * j.toNat) % 2 ^ 64 * 2 ^ (64 * j.toNat) + s.din.toNat * 2 ^ (64 * j.toNat)) ∧
        ∀ i, limb (t.x d) i = if i = j.toNat then s.din else limb (s.x d) i) ∧
    ∀ (d : XIdx) (j : BitVec 16) (s : State), 2 * s.cfg.lmax + 1 ≤ j.toNat →
      exec (.ldl d j) s = .next (Errored s 0x05)

/-- POW2 (spec R100). -/
def Obligations.Pow2Command : Prop :=
  (∀ c : CmdWord, c &&& 0xFF8F0000 = 0x08000000 → decode c = .ok (.pow2 (regAt c 20) (immAt c))) ∧
    (∀ (d : XIdx) (e : BitVec 16) (s : State), e.toNat < 64 * (2 * s.cfg.lmax + 1) →
      ∃ t, exec (.pow2 d e) s = .next t ∧ WroteX s t d (2 ^ e.toNat)) ∧
    ∀ (d : XIdx) (e : BitVec 16) (s : State), 64 * (2 * s.cfg.lmax + 1) ≤ e.toNat →
      exec (.pow2 d e) s = .next (Errored s 0x05)

/-- POW2N (spec R102): InvalidParameters while `N = 0`, before CapacityOverflow; with a legal `N` the multipliers 0, 1
and 2 always succeed. -/
def Obligations.Pow2nCommand : Prop :=
  (∀ c : CmdWord, c &&& 0xFF8F0000 = 0x09000000 → decode c = .ok (.pow2n (regAt c 20) (immAt c))) ∧
    (∀ (d : XIdx) (m : BitVec 16) (s : State), s.n.toNat ≠ 0 →
      64 * s.n.toNat * m.toNat < 64 * (2 * s.cfg.lmax + 1) ∨ (s.n.toNat ≤ s.cfg.lmax ∧ m.toNat ≤ 2) →
      ∃ t, exec (.pow2n d m) s = .next t ∧ WroteX s t d (2 ^ (64 * s.n.toNat * m.toNat))) ∧
    (∀ (d : XIdx) (m : BitVec 16) (s : State), s.n.toNat = 0 → exec (.pow2n d m) s = .next (Errored s 0x02)) ∧
    ∀ (d : XIdx) (m : BitVec 16) (s : State), s.n.toNat ≠ 0 →
      64 * (2 * s.cfg.lmax + 1) ≤ 64 * s.n.toNat * m.toNat → exec (.pow2n d m) s = .next (Errored s 0x05)

/-- DIV (spec R104): the floor of the quotient, no remainder anywhere; DivisionByZero exactly for a zero divisor. Any
of the three fields may name the same register. -/
def Obligations.DivCommand : Prop :=
  (∀ c : CmdWord, c &&& 0xFF888FFF = 0x0A000000 →
      decode c = .ok (.div (regAt c 20) (regAt c 16) (regAt c 12))) ∧
    (∀ (d a b : XIdx) (s : State), s.x b ≠ 0 →
      ∃ t, exec (.div d a b) s = .next t ∧ WroteX s t d (s.x a / s.x b)) ∧
    ∀ (d a b : XIdx) (s : State), s.x b = 0 → exec (.div d a b) s = .next (Errored s 0x03)

/-- MUL (spec R106): the exact product, or CapacityOverflow exactly when it is `2^CAP` or more. -/
def Obligations.MulCommand : Prop :=
  (∀ c : CmdWord, c &&& 0xFF888FFF = 0x0B000000 →
      decode c = .ok (.mul (regAt c 20) (regAt c 16) (regAt c 12))) ∧
    (∀ (d a b : XIdx) (s : State), s.x a * s.x b < 2 ^ (64 * (2 * s.cfg.lmax + 1)) →
      ∃ t, exec (.mul d a b) s = .next t ∧ WroteX s t d (s.x a * s.x b)) ∧
    ∀ (d a b : XIdx) (s : State), 2 ^ (64 * (2 * s.cfg.lmax + 1)) ≤ s.x a * s.x b →
      exec (.mul d a b) s = .next (Errored s 0x05)

/-- SUB (spec R108): the exact difference, or Underflow exactly when the minuend is smaller; and the subtraction law
(spec R109) over the operand values taken before the command. -/
def Obligations.SubCommand : Prop :=
  (∀ c : CmdWord, c &&& 0xFF888FFF = 0x0C000000 →
      decode c = .ok (.sub (regAt c 20) (regAt c 16) (regAt c 12))) ∧
    (∀ (d a b : XIdx) (s : State), s.x b ≤ s.x a →
      ∃ t, exec (.sub d a b) s = .next t ∧ WroteX s t d (s.x a - s.x b) ∧ t.x d + s.x b = s.x a) ∧
    ∀ (d a b : XIdx) (s : State), s.x a < s.x b → exec (.sub d a b) s = .next (Errored s 0x04)

/-- LIMB (spec R110): bits `[64*j, 64*j+64)` of the register to DOUT, 0 for `j >= K` of every register value; no error,
no TRUNC, `N` not read. -/
def Obligations.LimbCommand : Prop :=
  (∀ c : CmdWord, c &&& 0xFFF80000 = 0x10000000 → decode c = .ok (.limb (regAt c 16) (immAt c))) ∧
    (∀ (p : XIdx) (j : BitVec 16) (s : State),
      exec (.limb p j) s =
        .next { Completed s with dout := BitVec.ofNat 64 (s.x p / 2 ^ (64 * j.toNat)) }) ∧
    ∀ (p : XIdx) (j : BitVec 16) (s : State), s.XBounded → 2 * s.cfg.lmax + 1 ≤ j.toNat →
      exec (.limb p j) s = .next { Completed s with dout := 0 }

/-- DECOMP (spec R137): each of the `LMAX` entries of OBUF, OCNT, and the sticky TRUNC, and nothing else;
InvalidParameters while `N = 0`. -/
def Obligations.DecompCommand : Prop :=
  (∀ c : CmdWord, c &&& 0xFFF8FFFF = 0x11000000 → decode c = .ok (.decomp (regAt c 16))) ∧
    (∀ (p : XIdx) (s : State), s.n.toNat ≠ 0 →
      ∃ t, exec (.decomp p) s = .next t ∧
        t.obuf.length = s.cfg.lmax ∧
        (∀ j < s.cfg.lmax,
          t.obuf.getD j 0 = if j < s.n.toNat then BitVec.ofNat 64 (s.x p / 2 ^ (64 * j)) else 0) ∧
        t.ocnt = s.n ∧
        t.trunc = (if 2 ^ (64 * s.n.toNat) ≤ s.x p then true else s.trunc) ∧
        { t with obuf := s.obuf, ocnt := s.ocnt, trunc := s.trunc } = Completed s) ∧
    ∀ (p : XIdx) (s : State), s.n.toNat = 0 → exec (.decomp p) s = .next (Errored s 0x02)

/-- BARRETT (spec R130): the triple `(r, s, t)` of steps 1 to 7 and nothing else; IllegalCommand for `RD > 5`, then
InvalidParameters for `N = 0`, then for `p = 0`, in the order of R182, and no other error. The source register may be
one of the three destinations. -/
def Obligations.BarrettCommand : Prop :=
  (∀ c : CmdWord, c &&& 0xFF88FFFF = 0x18000000 →
      (c.toNat / 2 ^ 20 % 8 ≤ 5 → decode c = .ok (.barrett (regAt c 20) (regAt c 16))) ∧
        (5 < c.toNat / 2 ^ 20 % 8 → ∀ i, decode c ≠ .ok i)) ∧
    (∀ (d p : XIdx) (s : State), d.val ≤ 5 → s.n.toNat ≠ 0 → s.x p ≠ 0 →
      ∃ t, exec (.barrett d p) s = .next t ∧
        (∀ r : XIdx, t.x r =
          if r = d then 2 ^ (64 * s.n.toNat) / s.x p
          else if r = d + 1 then
            2 ^ (128 * s.n.toNat) / s.x p - 2 ^ (64 * s.n.toNat) * (2 ^ (64 * s.n.toNat) / s.x p)
          else if r = d + 2 then 2 ^ (64 * s.n.toNat) - 2 ^ (64 * s.n.toNat) / s.x p * s.x p
          else s.x r) ∧
        { t with xs := s.xs } = Completed s) ∧
    (∀ (d p : XIdx) (s : State), 5 < d.val → exec (.barrett d p) s = .next (Errored s 0x01)) ∧
    ∀ (d p : XIdx) (s : State), d.val ≤ 5 → s.n.toNat = 0 ∨ s.x p = 0 →
      exec (.barrett d p) s = .next (Errored s 0x02)

/-! ### Errors -/

/-- Error entry (spec R175, R176, R182): a word that decodes to nothing, and a command with an error cause, make none of
their own writes and perform only the error writes and the completion writes, with the code of the first cause in the
order of R182; a command without a cause leaves ERR and ERRCMD as they were. -/
def Obligations.ErrorCauseIsTaken : Prop :=
  (∀ s : State, s.Completing → (∀ i, decode s.cur ≠ .ok i) → step s = .next (Errored s.taken 0x01)) ∧
    ∀ (i : Instr) (s : State),
      (errorCause i s ≠ 0 → exec i s = .next (Errored s (errorCause i s))) ∧
        (errorCause i s = 0 → ∃ t, exec i s = .next t ∧ t.err = s.err ∧ t.errcmd = s.errcmd)

/-- While `ERR != 0` every CMD write is dropped and sets OVR, and nothing else changes, the results of earlier commands
included; and no command executes: while the invariant `BusyClean` holds, the engine's turn does nothing (spec R179). -/
def Obligations.LockoutWhileInError : Prop :=
  (∀ (s : State) (d : Word), s.err ≠ 0 → s.WritesWindow 0x020 d →
      ∃ r, step s = .next { s.taken with ovr := true, resp := r }) ∧
    ∀ s : State, s.BusyClean → s.err ≠ 0 → s.nextUp = .engineTurn → step s = .next s.taken

/-- Leaving the error state (spec R28, R178): a CTRL write with ERRCLR = 1 and SRST = 0 clears ERR, IE takes bit 0 and
nothing else changes; and no step but such a write or a reset takes ERR from nonzero to 0. -/
def Obligations.OnlyErrclrOrResetClearsError : Prop :=
  (∀ (s : State) (d : Word), s.WritesWindow 0x008 d → d[1] = false → d[2] = true →
      step s = .next { s.taken with err := 0, ie := d[0], resp := some .writeDone }) ∧
    ∀ s t : State, step s = .next t → s.err ≠ 0 → t.err = 0 →
      s.Resetting ∨ ∃ d, s.WritesWindow 0x008 d ∧ d[1] = false ∧ d[2] = true

/-! ### The laws of the arithmetic -/

/-- POW2 law (spec R101). -/
def Obligations.PowerOfTwoLimbs : Prop :=
  ∀ (d : XIdx) (e : BitVec 16) (s t : State), e.toNat < s.cfg.cap → exec (.pow2 d e) s = .next t →
    limb (t.x d) (e.toNat / 64) = BitVec.ofNat 64 (2 ^ (e.toNat % 64)) ∧
      ∀ j, j ≠ e.toNat / 64 → limb (t.x d) j = 0

/-- POW2N law (spec R103): for `N >= 1` a POW2N leaves what POW2 with the exponent `64*N*m` leaves, where the immediate
of POW2 can express it. -/
def Obligations.Pow2nAgreesWithPow2 : Prop :=
  ∀ (d : XIdx) (m e : BitVec 16) (s : State), 1 ≤ s.n.toNat → e.toNat = 64 * s.n.toNat * m.toNat →
    exec (.pow2n d m) s = exec (.pow2 d e) s

/-- Floor-division law (spec R105): the quotient is the unique `q` with `q*b <= a < (q+1)*b`; and MUL and SUB give the
remainder and never raise for it. -/
def Obligations.FloorDivisionLaw : Prop :=
  (∀ (d a b : XIdx) (s t : State), s.x b ≠ 0 → exec (.div d a b) s = .next t →
      (t.x d * s.x b ≤ s.x a ∧ s.x a < (t.x d + 1) * s.x b) ∧
        ∀ q, q * s.x b ≤ s.x a → s.x a < (q + 1) * s.x b → q = t.x d) ∧
    ∀ (d c a b : XIdx) (s : State), s.XBounded → s.x b ≠ 0 → d ≠ a → d ≠ b → c ≠ a →
      ∃ t, execAll [.div d a b, .mul c d b, .sub c a c] s = .next t ∧
        t.x c = s.x a % s.x b ∧ t.err = s.err ∧ t.errcmd = s.errcmd

/-- Multiplication law (spec R107): MUL commutes, in its result and in its error, and a product that is not an error is
exact. -/
def Obligations.MultiplicationLaw : Prop :=
  ∀ (d a b : XIdx) (s : State),
    exec (.mul d a b) s = exec (.mul d b a) s ∧
      ∀ t, errorCause (.mul d a b) s = 0 → exec (.mul d a b) s = .next t → t.x d = s.x a * s.x b

/-- Limb round trip (spec R111): the DOUT values read after `LIMB Xs, 0` to `LIMB Xs, m-1` reassemble to the value. -/
def Obligations.LimbRoundTrip : Prop :=
  ∀ (p : XIdx) (s : State) (m : Nat), m ≤ 65536 → s.x p < 2 ^ (64 * m) →
    ∃ t : Nat → State,
      (∀ j < m, exec (.limb p (BitVec.ofNat 16 j)) s = .next (t j)) ∧
        ((List.range m).map fun j => (t j).dout.toNat * 2 ^ (64 * j)).sum = s.x p

/-- Intermediate bounds of BARRETT (spec R131), for every `n >= 1` and `p >= 1`; within the capacity for `n <= LMAX`. -/
def Obligations.BarrettIntermediateBounds : Prop :=
  ∀ n p : Nat, 1 ≤ n → 1 ≤ p →
    ∃ c, barrettConstants n p = .ok c ∧
      c.r ≤ 2 ^ (64 * n) ∧ (c.r = 2 ^ (64 * n) ↔ p = 1) ∧
      c.r * p ≤ 2 ^ (64 * n) ∧
      2 ^ (64 * n) * c.r ≤ 2 ^ (128 * n) ∧
      2 ^ (128 * n) / p ≤ 2 ^ (128 * n) ∧
      ∀ cfg : Config, n ≤ cfg.lmax → 128 * n + 1 ≤ 64 * cfg.k

/-- Postconditions of BARRETT (spec R132). -/
def Obligations.BarrettPostconditions : Prop :=
  ∀ (d p : XIdx) (s t : State), d.val ≤ 5 → s.n.toNat ≠ 0 → s.x p ≠ 0 → exec (.barrett d p) s = .next t →
    t.x d * s.x p + t.x (d + 2) = 2 ^ (64 * s.n.toNat) ∧ t.x (d + 2) < s.x p ∧
      t.x (d + 1) < 2 ^ (64 * s.n.toNat) ∧ t.x d ≤ 2 ^ (64 * s.n.toNat) ∧
      (t.x d = 2 ^ (64 * s.n.toNat) ↔ s.x p = 1)

/-- Closed form of `s` (spec R133), and what `r` and `s` together are. -/
def Obligations.BarrettCorrectionClosedForm : Prop :=
  ∀ (d p : XIdx) (s t : State), d.val ≤ 5 → s.n.toNat ≠ 0 → s.x p ≠ 0 → exec (.barrett d p) s = .next t →
    t.x (d + 1) = t.x (d + 2) * 2 ^ (64 * s.n.toNat) / s.x p ∧
      2 ^ (128 * s.n.toNat) / s.x p = t.x d * 2 ^ (64 * s.n.toNat) + t.x (d + 1)

/-- Underflow cannot be raised by BARRETT (spec R134): neither guard is ever true, and no BARRETT writes code 4. -/
def Obligations.BarrettNeverUnderflows : Prop :=
  (∀ n p : Nat, 1 ≤ n → 1 ≤ p →
      2 ^ (64 * n) * (2 ^ (64 * n) / p) ≤ 2 ^ (128 * n) / p ∧ 2 ^ (64 * n) / p * p ≤ 2 ^ (64 * n) ∧
        barrettConstants n p ≠ .error .underflow) ∧
    ∀ (d p : XIdx) (s t : State), exec (.barrett d p) s = .next t → t.err = 0x04 → s.err = 0x04

/-- Boundary results of BARRETT (spec R135), row by row, with the values that do not fit in `n` limbs. -/
def Obligations.BarrettBoundaryResults : Prop :=
  ∀ n : Nat, 1 ≤ n →
    barrettConstants n 1 = .ok ⟨2 ^ (64 * n), 0, 0⟩ ∧
    (barrettConstants n 2 = .ok ⟨2 ^ (64 * n) / 2, 0, 0⟩ ∧ 2 ^ (64 * n) / 2 < 2 ^ (64 * n)) ∧
    barrettConstants n (2 ^ (64 * n) - 1) = .ok ⟨1, 1, 1⟩ ∧
    barrettConstants n (2 ^ (64 * n)) = .ok ⟨1, 0, 0⟩ ∧
    1 < 2 ^ (64 * n) ∧
    barrettConstants n (2 ^ (64 * n) + 1) = .ok ⟨0, 2 ^ (64 * n) - 1, 2 ^ (64 * n)⟩ ∧
    (∀ p, 2 ^ (64 * n) < p →
      barrettConstants n p = .ok ⟨0, 2 ^ (128 * n) / p, 2 ^ (64 * n)⟩ ∧ 2 ^ (128 * n) / p < 2 ^ (64 * n)) ∧
    ∀ p, 2 ^ (128 * n) + 1 ≤ p → barrettConstants n p = .ok ⟨0, 0, 2 ^ (64 * n)⟩

/-- BARRETT equals its primitive expansion (spec R136): with scratch registers as the rule asks, the eight commands all
succeed and leave in `X[d], X[d+1], X[d+2]` what BARRETT leaves; with `X[s] = 0` the first DIV raises DivisionByZero
where BARRETT raises InvalidParameters. -/
def Obligations.BarrettEqualsExpansion : Prop :=
  ∀ (d p a b c : XIdx) (s : State), s.Wf → d.val ≤ 5 → s.n.toNat ≠ 0 →
    a ≠ b → a ≠ c → b ≠ c → a ≠ p → b ≠ p → c ≠ p →
    a ∉ [d, d + 1, d + 2] → b ∉ [d, d + 1, d + 2] → c ∉ [d, d + 1, d + 2] → p ≠ d → p ≠ d + 1 →
    (s.x p ≠ 0 →
      ∃ t u, exec (.barrett d p) s = .next t ∧ execAll (barrettExpansion d p a b c) s = .next u ∧
        u.x d = t.x d ∧ u.x (d + 1) = t.x (d + 1) ∧ u.x (d + 2) = t.x (d + 2) ∧
        u.err = s.err ∧ u.errcmd = s.errcmd) ∧
    (s.x p = 0 →
      exec (.barrett d p) s = .next (Errored s 0x02) ∧
        ∃ t, execAll [.pow2n a 1, .pow2n b 2, .div d a p] s = .next t ∧ t.err = 0x03)

/-- LimbSequence form (spec R138): after a DECOMP, entry `j < OCNT` of OBUF is `(x >> 64j)` cut to 64 bits; where TRUNC
was clear and stayed clear the sequence reassembles to `x`; and a TRUNC that was already set stays set whatever `x`. -/
def Obligations.DecompIsLimbSequence : Prop :=
  ∀ (p : XIdx) (s t : State), s.NLegal → s.n.toNat ≠ 0 → exec (.decomp p) s = .next t →
    t.ocnt = s.n ∧
    (∀ j < t.ocnt.toNat, (t.obuf.getD j 0).toNat = s.x p >>> (64 * j) &&& 0xFFFFFFFFFFFFFFFF) ∧
    (s.trunc = false → t.trunc = false →
      ((List.range t.ocnt.toNat).map fun j => (t.obuf.getD j 0).toNat * 2 ^ (64 * j)).sum = s.x p) ∧
    (s.trunc = true → t.trunc = true)

/-- Load law (spec R155): from an idle block without an error, a host that performs CLR and then, for each limb that is
not left out, DIN write and LDL (a limb may be left out where it is 0), each command with its WAIT (spec R79), leaves,
when its program is over, `X[d] = v`, the other registers as they were, no error and no dropped write. That holds
whenever the engine's turns come between the host's accesses, so each WAIT polls as often as it happens to (the list of
moves is the model's form of the order, log 15); and from any point a host that finds the engine's turn before each of
its accesses gets to the end. `LOADV` leaves out exactly the limbs that are 0; it is an assembly error where a nonzero
limb has an index above 65535 (spec R78; that LOADV is one then is the model's deduction, log 20). -/
def Obligations.LoadLaw : Prop :=
  (∀ (s : State) (d : XIdx) (v m : Nat) (keep : Nat → Bool),
      s.cfg.Valid → s.rst = false → s.busy = false → s.err = 0 → m ≤ s.cfg.k → v < 2 ^ (64 * m) →
      (∀ j < m, keep j = false → limb v j = 0) →
      ∃ program, clearAndLoad d v ((List.range m).filter keep) = .ok program ∧
        ∀ ms : List Move, (∀ a, Move.other a ∈ ms → a = .engineTurn) →
          ∃ r, (s.hostAt program).moves ms = .next r ∧
            (r.todo = [] →
              r.block.x d = v ∧ (∀ i, i ≠ d → r.block.x i = s.x i) ∧ r.block.err = 0 ∧ r.block.ovr = s.ovr ∧
                r.block.busy = false) ∧
            ∃ u, r.moves (List.replicate r.todo.length [.other .engineTurn, .host]).flatten = .next u ∧
              u.todo = []) ∧
    (∀ (d : XIdx) (v m : Nat),
      loadv d v m = clearAndLoad d v ((List.range m).filter fun j => decide (limb v j ≠ 0))) ∧
    ∀ (d : XIdx) (v m j : Nat), 65536 ≤ j → j < m → limb v j ≠ 0 → loadv d v m = .error .immediateRange

/-! ### The host window -/

/-- Command acceptance (spec R34): a CMD write with `BUSY = 0` and `ERR = 0` latches bits 31:0, whatever they decode to,
clears DONE and sets BUSY; otherwise it sets OVR and nothing else changes. An illegal word is accepted, and its
complete step raises IllegalCommand. A read of CMD returns 0. That CUR still holds the word after that complete step
is the model's deduction (log 12): R33 lets it hold any value while `BUSY = 0`. -/
def Obligations.CommandAcceptance : Prop :=
  (∀ (s : State) (d : Word), s.WritesWindow 0x020 d → s.busy = false → s.err = 0 →
      ∃ r, step s =
        .next { s.taken with cur := BitVec.ofNat 32 d.toNat, done := false, busy := true, resp := r }) ∧
    (∀ (s : State) (d : Word), s.WritesWindow 0x020 d → s.busy = true ∨ s.err ≠ 0 →
      ∃ r, step s = .next { s.taken with ovr := true, resp := r }) ∧
    (∀ (s : State) (d : Word), s.rst = false → s.busy = false → s.err = 0 →
      (∀ i, decode (BitVec.ofNat 32 d.toNat) ≠ .ok i) →
      ∃ r, Host.Core.run core 2 { s with arrivals := [hostW s.cfg 0x020 d, .engineTurn] } =
        .next { s with
                cur := BitVec.ofNat 32 d.toNat, busy := false, done := true, err := 0x01,
                errcmd := BitVec.ofNat 64 (d.toNat % 2 ^ 32), arrivals := [], resp := r }) ∧
    ∀ s : State, s.ReadsWindow 0x020 → step s = .next { s.taken with resp := some (.readData 0) }

/-- CTRL (spec R28): a read returns IE in bit 0 and 0 elsewhere; a write with SRST = 1 resets every element of the block
and ignores the rest (what is the model's own, log 6, is not claimed here); otherwise IE takes bit 0 and ERRCLR = 1
clears ERR; whether BUSY is 0 or 1. IE enables the interrupt, and is 0 after reset. -/
def Obligations.CtrlRegister : Prop :=
  (∀ s : State, s.ReadsWindow 0x008 →
      step s = .next { s.taken with resp := some (.readData (if s.ie then 1 else 0)) }) ∧
    (∀ (s : State) (d : Word), s.WritesWindow 0x008 d → d[1] = true →
      ∃ rest n r, step s = .next { State.resetWith s.cfg with arrivals := rest, draws := n, resp := r }) ∧
    (∀ (s : State) (d : Word), s.WritesWindow 0x008 d → d[1] = false →
      ∃ r, step s =
        .next { s.taken with ie := d[0], err := if d[2] then 0 else s.err, resp := r }) ∧
    (∀ s : State, s.irq = (s.ie && s.done)) ∧ ∀ c : Config, (State.resetWith c).ie = false

/-- STATUS (spec R29), its layout and its write: a read returns BUSY, DONE, TRUNC, OVR in bits 0 to 3, ERR in bits 15:8
and 0 elsewhere; a write clears each of DONE, TRUNC and OVR whose bit is 1 and changes nothing else; whether BUSY is 0
or 1. -/
def Obligations.StatusRegister : Prop :=
  (∀ s : State, s.ReadsWindow 0x010 →
      step s = .next { s.taken with resp := some (.readData s.statusWord) }) ∧
    (∀ s : State,
      s.statusWord.toNat =
        s.busy.toNat + 2 * s.done.toNat + 4 * s.trunc.toNat + 8 * s.ovr.toNat + 256 * s.err.toNat) ∧
    ∀ (s : State) (d : Word), s.WritesWindow 0x010 d →
      step s = .next
        { s.taken with
          done := if d[1] then false else s.done
          trunc := if d[2] then false else s.trunc
          ovr := if d[3] then false else s.ovr
          resp := some .writeDone }

/-- What sets and clears each field of STATUS (spec R29, the last two columns of its table): over every step. -/
def Obligations.FlagsChangeOnlyAsTabled : Prop :=
  ∀ s t : State, step s = .next t →
    (s.busy = false → t.busy = true → ∃ d, s.WritesWindow 0x020 d ∧ s.err = 0) ∧
    (s.busy = true → t.busy = false → s.Completing ∨ s.Resetting) ∧
    (s.done = false → t.done = true → s.Completing) ∧
    (s.done = true → t.done = false →
      s.Resetting ∨ (∃ d, s.WritesWindow 0x010 d ∧ d[1] = true) ∨
        ∃ d, s.WritesWindow 0x020 d ∧ s.busy = false ∧ s.err = 0) ∧
    (s.trunc = false → t.trunc = true →
      s.Completing ∧ ∃ p, decode s.cur = .ok (.decomp p) ∧ 2 ^ (64 * s.n.toNat) ≤ s.x p) ∧
    (s.trunc = true → t.trunc = false → s.Resetting ∨ ∃ d, s.WritesWindow 0x010 d ∧ d[2] = true) ∧
    (s.ovr = false → t.ovr = true →
      (∃ d, s.WritesWindow 0x020 d ∧ (s.busy = true ∨ s.err ≠ 0)) ∨ ∃ d, s.WritesWindow 0x028 d ∧ s.busy = true) ∧
    (s.ovr = true → t.ovr = false → s.Resetting ∨ ∃ d, s.WritesWindow 0x010 d ∧ d[3] = true) ∧
    (t.err ≠ s.err → t.err ≠ 0 → s.Completing) ∧
    (s.err ≠ 0 → t.err = 0 → s.Resetting ∨ ∃ d, s.WritesWindow 0x008 d ∧ d[2] = true)

/-- DIN (spec R23, R206): a write while `BUSY = 0` stores; while `BUSY = 1` it is dropped and sets OVR; a read returns
it, busy or not. -/
def Obligations.DinRegister : Prop :=
  (∀ (s : State) (d : Word), s.WritesWindow 0x028 d → s.busy = false →
      step s = .next { s.taken with din := d, resp := some .writeDone }) ∧
    (∀ (s : State) (d : Word), s.WritesWindow 0x028 d → s.busy = true →
      step s = .next { s.taken with ovr := true, resp := some .writeDone }) ∧
    ∀ s : State, s.ReadsWindow 0x028 → step s = .next { s.taken with resp := some (.readData s.din) }

/-- Reserved offsets and read-only registers (spec R52, R51): a reserved offset reads 0; a write to it, or to ID,
LCOUNT, DOUT, ERRCMD, OCNT or OBUF, has no effect and no error; CMD reads 0. -/
def Obligations.ReservedAndReadOnly : Prop :=
  (∀ (s : State) (off : Nat), s.cfg.Valid → off % 8 = 0 →
      (0x048 ≤ off ∧ off ≤ 0x0F8) ∨ (0x100 + 8 * s.cfg.lmax ≤ off ∧ off ≤ 0xFF8) →
      (s.ReadsWindow off → step s = .next { s.taken with resp := some (.readData 0) }) ∧
        ∀ d, s.WritesWindow off d → step s = .next { s.taken with resp := some .writeDone }) ∧
    (∀ (s : State) (off : Nat) (d : Word), s.cfg.Valid →
      off ∈ [0x000, 0x018, 0x030, 0x038, 0x040] ∨ (∃ j, j < s.cfg.lmax ∧ off = 0x100 + 8 * j) →
      s.WritesWindow off d → step s = .next { s.taken with resp := some .writeDone }) ∧
    ∀ s : State, s.ReadsWindow 0x020 → step s = .next { s.taken with resp := some (.readData 0) }

/-- Refused accesses and byte order (spec R54): an access inside the window of any width but 64 bits, or at an offset
that is no multiple of 8, gets a bus error with read data 0 and changes no state; byte lane `k` carries bits
`8k+7 : 8k`, and the eight lanes make the value. -/
def Obligations.RefusedAccesses : Prop :=
  (∀ (s : State) (off bits : Nat) (d : Word), s.rst = false → off < 4096 → bits ≠ 64 ∨ off % 8 ≠ 0 →
      s.nextUp = .read (s.cfg.smdcBase + off) bits ∨ s.nextUp = .write (s.cfg.smdcBase + off) bits d →
      step s = .next { s.taken with resp := some (.busError 0) }) ∧
    ∀ v : Word,
      (∀ k : Fin 8, (byteLane v k).toNat = v.toNat / 2 ^ (8 * k.val) % 2 ^ 8) ∧
        ofByteLanes (byteLane v 0) (byteLane v 1) (byteLane v 2) (byteLane v 3) (byteLane v 4) (byteLane v 5)
          (byteLane v 6) (byteLane v 7) = v

/-- The register map for reads while `BUSY = 0` (spec R24 to R27, R30, R51, R206): each answers its register exactly,
narrower registers zero-extended, and changes nothing. -/
def Obligations.IdleReadsAreExact : Prop :=
  ∀ s : State, s.cfg.Valid → s.busy = false →
    (s.ReadsWindow 0x018 →
      step s = .next { s.taken with resp := some (.readData (BitVec.ofNat 64 s.n.toNat)) }) ∧
    (s.ReadsWindow 0x030 → step s = .next { s.taken with resp := some (.readData s.dout) }) ∧
    (s.ReadsWindow 0x038 → step s = .next { s.taken with resp := some (.readData s.errcmd) }) ∧
    (s.ReadsWindow 0x040 →
      step s = .next { s.taken with resp := some (.readData (BitVec.ofNat 64 s.ocnt.toNat)) }) ∧
    ∀ j < s.cfg.lmax, s.ReadsWindow (0x100 + 8 * j) →
      step s = .next { s.taken with resp := some (.readData (s.obuf.getD j 0)) }

/-- ID (spec R31): a constant read at every time, busy or not, `0x534D4443` over `0x0001` over LMAX; writes are
ignored; for `LMAX = 4` it reads `0x534D444300010004`. -/
def Obligations.IdentificationIsConstant : Prop :=
  (∀ s : State, s.cfg.Valid → s.ReadsWindow 0x000 →
      step s = .next
        { s.taken with
          resp := some (.readData (BitVec.ofNat 64 (0x534D4443 * 2 ^ 32 + 0x0001 * 2 ^ 16 + s.cfg.lmax))) }) ∧
    (∀ (s : State) (d : Word), s.WritesWindow 0x000 d → ∃ r, step s = .next { s.taken with resp := r }) ∧
    ∀ s : State, s.cfg.lmax = 4 → s.ReadsWindow 0x000 →
      step s = .next { s.taken with resp := some (.readData 0x534D444300010004) }

/-- The read hazard (spec R206): while `BUSY = 1` a read of LCOUNT, DOUT, ERRCMD, OCNT or an OBUF entry answers a free
value, a new one for each read (log 3: the model's form of the free draw), and changes nothing else; reads of CTRL,
STATUS and DIN are exact. -/
def Obligations.BusyReadsAreFree : Prop :=
  (∀ (s : State) (off : Nat), s.cfg.Valid → s.busy = true →
      off ∈ [0x018, 0x030, 0x038, 0x040] ∨ (∃ j, j < s.cfg.lmax ∧ off = 0x100 + 8 * j) → s.ReadsWindow off →
      step s = .next
        { s.taken with resp := some (.readData (Config.busyRead s.draws)), draws := s.draws + 1 }) ∧
    ∀ s : State, s.busy = true →
      (s.ReadsWindow 0x008 → step s = .next { s.taken with resp := some (.readData s.ctrlWord) }) ∧
      (s.ReadsWindow 0x010 → step s = .next { s.taken with resp := some (.readData s.statusWord) }) ∧
      (s.ReadsWindow 0x028 → step s = .next { s.taken with resp := some (.readData s.din) })

/-- No read has a side effect (spec R56): a read of any width anywhere in the window changes nothing but the answer (and
the count of drawn free values, log 3), and repeated while `BUSY = 0` it answers the same. -/
def Obligations.ReadsHaveNoSideEffect : Prop :=
  ∀ (s t : State) (addr bits : Nat), s.nextUp = .read addr bits → step s = .next t →
    { t with resp := s.resp, draws := s.draws } = s.taken ∧
      (s.busy = false → t.draws = s.draws ∧
        ∀ u, t.nextUp = .read addr bits → step t = .next u → u.resp = t.resp)

/-- The big-integer registers are not host-readable (spec R11, R20): two states that differ in them alone answer every
host access alike, and still differ in them alone. -/
def Obligations.RegistersNotHostReadable : Prop :=
  ∀ (s t : State) (xs' : XRegs), s.nextUp ≠ .engineTurn → step s = .next t →
    ∃ t', step { s with xs := xs' } = .next t' ∧ t'.resp = t.resp ∧ { t' with xs := t.xs } = t

/-- No command reads a flag (spec R32): with DONE, TRUNC and OVR changed a command writes the same, but for the TRUNC
and OVR it leaves as they were. -/
def Obligations.OutcomeIndependentOfFlags : Prop :=
  ∀ (i : Instr) (s t : State) (a b c : Bool), exec i s = .next t →
    ∃ t', exec i { s with done := a, trunc := b, ovr := c } = .next t' ∧
      { t' with trunc := t.trunc, ovr := t.ovr } = t ∧ t'.ovr = c ∧
      (b = s.trunc → t'.trunc = t.trunc) ∧ (b = true → t'.trunc = true)

/-- What writes each register (spec R22 to R28, R34), over every step that is no reset. The clause on CUR is in part the
model's deduction (log 12): that an acceptance writes it is R34, that nothing changes it while `BUSY = 0` is the model's,
since R33 lets it hold any value then. -/
def Obligations.RegistersChangeOnlyAsRuled : Prop :=
  ∀ s t : State, step s = .next t → ¬s.Resetting →
    (t.n ≠ s.n →
      s.Completing ∧ ∃ k, decode s.cur = .ok (.setn k) ∧ t.n = k ∧ 1 ≤ k.toNat ∧ k.toNat ≤ s.cfg.lmax) ∧
    (t.dout ≠ s.dout → s.Completing ∧ ∃ p j, decode s.cur = .ok (.limb p j)) ∧
    (t.obuf ≠ s.obuf ∨ t.ocnt ≠ s.ocnt → s.Completing ∧ ∃ p, decode s.cur = .ok (.decomp p)) ∧
    (t.errcmd ≠ s.errcmd → s.Completing ∧ t.err ≠ 0 ∧ t.errcmd = BitVec.ofNat 64 s.cur.toNat) ∧
    (t.xs ≠ s.xs → s.Completing) ∧
    (t.din ≠ s.din → s.busy = false ∧ s.WritesWindow 0x028 t.din) ∧
    (t.ie ≠ s.ie → ∃ d, s.WritesWindow 0x008 d ∧ t.ie = d[0]) ∧
    (t.cur ≠ s.cur →
      ∃ d, s.WritesWindow 0x020 d ∧ s.busy = false ∧ s.err = 0 ∧ t.cur = BitVec.ofNat 32 d.toNat) ∧
    t.rst = s.rst

/-! ### The interrupt -/

/-- The interrupt line (spec R180): `IRQ = IE AND DONE` at every instant; a completion raises it when enabled; a STATUS
write with bit 1 = 1, the acceptance of a command, and clearing IE each lower it; at reset it is 0. -/
def Obligations.InterruptLevel : Prop :=
  (∀ s : State, s.irq = (s.ie && s.done)) ∧
    (∀ s t : State, s.Completing → step s = .next t → t.irq = s.ie) ∧
    (∀ (s t : State) (d : Word), s.WritesWindow 0x010 d → d[1] = true → step s = .next t →
      t.irq = false) ∧
    (∀ (s t : State) (d : Word), s.WritesWindow 0x020 d → s.busy = false → s.err = 0 → step s = .next t →
      t.irq = false) ∧
    (∀ (s t : State) (d : Word), s.WritesWindow 0x008 d → d[0] = false → step s = .next t →
      t.irq = false) ∧
    ∀ c : Config, (State.resetWith c).irq = false

/-! ### Reset -/

/-- The reset values (spec R38), for every value of the parameters, and the state after reset (spec R202): idle until a
CMD write, which is accepted. -/
def Obligations.ResetValues : Prop :=
  ∀ c : Config,
    (∀ r : XIdx, (State.resetWith c).x r = 0) ∧
    (State.resetWith c).n = 0 ∧ (State.resetWith c).din = 0 ∧ (State.resetWith c).dout = 0 ∧
    (State.resetWith c).obuf.length = c.lmax ∧ (∀ j, (State.resetWith c).obuf.getD j 0 = 0) ∧
    (State.resetWith c).ocnt = 0 ∧ (State.resetWith c).errcmd = 0 ∧ (State.resetWith c).ie = false ∧
    (State.resetWith c).busy = false ∧ (State.resetWith c).done = false ∧ (State.resetWith c).trunc = false ∧
    (State.resetWith c).ovr = false ∧ (State.resetWith c).err = 0 ∧ (State.resetWith c).cur = 0 ∧
    (State.resetWith c).irq = false ∧
    State.reset = State.resetWith State.reset.cfg ∧
    step (State.resetWith c) = .next (State.resetWith c) ∧
    ∀ d : Word,
      step { State.resetWith c with arrivals := [hostW c 0x020 d] } =
        .next { State.resetWith c with
                cur := BitVec.ofNat 32 d.toNat, busy := true, resp := some .writeDone }

/-- Hard reset (spec R200; log 5 for what is held while RST is asserted): while RST is asserted no host access is
answered and the engine takes no step, and nothing changes; when RST is released every state element holds its reset
value, whatever it held, a command in flight being abandoned; asserting RST also leaves no command in flight and
`IRQ = 0`. -/
def Obligations.HardReset : Prop :=
  (∀ s : State, s.rst = true → (∀ level, s.nextUp ≠ .rst level) →
      ∃ r, step s = .next { s.taken with resp := r } ∧ (s.nextUp ≠ .engineTurn → r = none)) ∧
    (∀ (s : State) (level : Bool), s.nextUp = .rst level → level ≠ s.cfg.rstPolarity.activeHigh → s.rst = true →
      step s = .next { State.resetWith s.cfg with arrivals := s.arrivals.tail, draws := s.draws }) ∧
    (∀ (s : State) (level : Bool), s.nextUp = .rst level → level = s.cfg.rstPolarity.activeHigh →
      ∃ t, step s = .next t ∧ t.rst = true ∧ t.busy = false ∧ t.irq = false) ∧
    ∀ (s : State) (level : Bool), s.nextUp = .rst level → level ≠ s.cfg.rstPolarity.activeHigh → s.rst = false →
      step s = .next s.taken

/-- Soft reset (spec R201): a CTRL write with SRST = 1, whatever its other bits and whether a command is in flight or
not, leaves every element of the block at its reset value in one step, so that a command in flight never completes,
and the write itself completes normally. What is the model's own (log 6) is not claimed. -/
def Obligations.SoftReset : Prop :=
  ∀ (s : State) (d : Word), s.WritesWindow 0x008 d → d[1] = true →
    ∃ rest n, step s =
      .next { State.resetWith s.cfg with arrivals := rest, draws := n, resp := some .writeDone }

/-- A soft reset and a completion come in either order (spec R183, R201): before the completion the reset aborts the
command, after it the reset erases its writes, and both orders end in the same state. -/
def Obligations.SoftResetAndCompletionOrders : Prop :=
  ∀ (s : State) (d : Word), s.rst = false → s.busy = true → d[1] = true →
    Host.Core.run core 2 { s with arrivals := [hostW s.cfg 0x008 d, .engineTurn] } =
        .next { State.resetWith s.cfg with draws := s.draws, resp := some .writeDone } ∧
      Host.Core.run core 2 { s with arrivals := [.engineTurn, hostW s.cfg 0x008 d] } =
        .next { State.resetWith s.cfg with draws := s.draws, resp := some .writeDone }

/-! ### The whole machine -/

/-- The invariant holds after reset, for all legal parameters (spec R38, R5). -/
def Obligations.ResetIsWf : Prop :=
  State.reset.Wf ∧ ∀ c : Config, c.Valid → (State.resetWith c).Wf

/-- Every step keeps the invariant (spec R6, R20, R22, R25, R26, R34, R171, R176, R200). -/
def Obligations.StepKeepsWf : Prop :=
  ∀ s t : State, s.Wf → step s = .next t → t.Wf

/-- Every accepted command completes unless a reset comes first (spec R210, R211; log 2 for how the model lets the
engine's turn come): within the arrivals still to come and one step more, a step that is the complete step or a reset
ends it, and until then the latched command stays. -/
def Obligations.EveryAcceptedCommandEnds : Prop :=
  ∀ s : State, s.busy = true → s.rst = false → (∀ a ∈ s.arrivals, a.inWindow s.cfg = true) →
    ∃ k ≤ s.arrivals.length, ∃ u t, Host.Core.run core k s = .next u ∧ step u = .next t ∧
      u.busy = true ∧ u.cur = s.cur ∧ t.busy = false ∧ ((u.Completing ∧ t.done = true) ∨ u.Resetting)

/-- Arrivals are taken one at a time, in their order, and the parameters never change (spec R55, R59); no step is
refused, and a step faults exactly on a host access outside the window while RST is released (spec R50, log 7). -/
def Obligations.ArrivalsTakenInOrder : Prop :=
  ∀ s : State,
    (∀ t, step s = .next t → t.arrivals = s.arrivals.tail ∧ t.cfg = s.cfg) ∧
    (∀ r, step s ≠ .refused r) ∧
    ∀ addr, step s = .fault (.outsideWindow addr) ↔
      s.rst = false ∧ (addr < s.cfg.smdcBase ∨ s.cfg.smdcBase + 4096 ≤ addr) ∧
        ((∃ bits, s.nextUp = .read addr bits) ∨ ∃ bits d, s.nextUp = .write addr bits d)

/-- Dropped-write detection (spec R205): for a CMD write and then the engine's turn, the host's check of STATUS before
and after (OVR was 0 and is still 0, DONE is 1, ERR is 0) holds exactly when OVR was 0 and the command was accepted,
is legal, and raised no error. -/
def Obligations.HostCheckIsSound : Prop :=
  ∀ (s : State) (c : CmdWord), s.rst = false →
    s.arrivals = [hostW s.cfg 0x020 (c.setWidth 64), .engineTurn] →
    ∃ t, Host.Core.run core 2 s = .next t ∧
      (commandSucceeded s.statusWord t.statusWord = true ↔
        s.ovr = false ∧ s.busy = false ∧ s.err = 0 ∧ ∃ i, decode c = .ok i ∧ errorCause i s = 0)
end

