-- ==== Sys2Proof/Laws/Operands.lean ====
section
/-! SUPPORT. What the operand forms and the engine's operations can do (spec R8, R22, R100 to R109, R130, R154). -/

namespace Sys2Proof.Machine

open Sys2Proof

/-! ### Limbs -/

theorem limb_toNat (v j : Nat) : (limb v j).toNat = v / 2 ^ (64 * j) % 2 ^ 64 := by
  simp [limb]

/-- A limb beyond the value's significant width is 0 (spec R8). -/
theorem limb_eq_zero {v j : Nat} (h : v < 2 ^ (64 * j)) : limb v j = 0 := by
  simp [limb, Nat.div_eq_of_lt h]

@[simp] theorem limb_zero (j : Nat) : limb 0 j = 0 := by simp [limb]

/-- A value is its part below limb `j`, limb `j`, and its part above. -/
theorem limb_split (v j : Nat) :
    v = v % 2 ^ (64 * j) + 2 ^ (64 * j) * ((limb v j).toNat + 2 ^ 64 * (v / 2 ^ (64 * (j + 1)))) := by
  have h1 : v / 2 ^ (64 * (j + 1)) = v / 2 ^ (64 * j) / 2 ^ 64 := by
    rw [Nat.div_div_eq_div_mul, ← pow_add]; congr 2
  rw [limb_toNat, h1, Nat.mod_add_div, Nat.mod_add_div]

/-- What LDL leaves (spec R154): the parts below and above limb `j` as they were, limb `j` replaced. -/
theorem replaceLimb_eq (v j : Nat) (w : Word) :
    replaceLimb v j w =
      v % 2 ^ (64 * j) + 2 ^ (64 * j) * (w.toNat + 2 ^ 64 * (v / 2 ^ (64 * (j + 1)))) := by
  have h := limb_split v j
  unfold replaceLimb
  generalize (limb v j).toNat = l at *
  generalize v / 2 ^ (64 * (j + 1)) = u at *
  generalize v % 2 ^ (64 * j) = m at *
  generalize 2 ^ (64 * j) = P at *
  subst h
  have e : m + P * (l + 2 ^ 64 * u) - l * P = m + P * (2 ^ 64 * u) := by
    rw [Nat.mul_add, Nat.mul_comm l P]; omega
  rw [e]; ring

/-! ### The limb count and the engine's operations -/

/-- `N` is unset exactly when its value is 0 (spec R22). -/
theorem State.n_eq_zero_iff (s : State) : s.n = 0 ↔ s.n.toNat = 0 := by
  rw [← BitVec.toNat_inj]; simp

/-- All the reading of `N` can do (spec R22). -/
theorem limbCount_cases (s : State) :
    (s.n = 0 ∧ limbCount s = .error .invalidParameters) ∨ (s.n ≠ 0 ∧ limbCount s = .ok s.n.toNat) := by
  unfold limbCount; split <;> simp_all

/-- All `power_of_two` can do (spec R100). -/
theorem powerOfTwo_cases (cap e : Nat) :
    (cap ≤ e ∧ powerOfTwo cap e = .error .capacityOverflow) ∨ (e < cap ∧ powerOfTwo cap e = .ok (2 ^ e)) := by
  unfold powerOfTwo; split <;> simp_all

/-- All `floor_div` can do (spec R104). -/
theorem floorDiv_cases (a b : Nat) :
    (b = 0 ∧ floorDiv a b = .error .divisionByZero) ∨ (b ≠ 0 ∧ floorDiv a b = .ok (a / b)) := by
  unfold floorDiv; split <;> simp_all

/-- All `multiply` can do (spec R106). -/
theorem multiply_cases (cap a b : Nat) :
    (2 ^ cap ≤ a * b ∧ multiply cap a b = .error .capacityOverflow) ∨
      (a * b < 2 ^ cap ∧ multiply cap a b = .ok (a * b)) := by
  unfold multiply; split <;> simp_all

/-- All `subtract` can do (spec R108). -/
theorem subtract_cases (a b : Nat) :
    (a < b ∧ subtract a b = .error .underflow) ∨ (b ≤ a ∧ subtract a b = .ok (a - b)) := by
  unfold subtract; split <;> simp_all

/-- All `compute` can do (spec R130), the Underflow guards still standing. -/
theorem barrettConstants_cases {n p : Nat} {o : Except ErrorCode BarrettConstants} (h : barrettConstants n p = o) :
    (p = 0 ∧ o = .error .invalidParameters) ∨
      (p ≠ 0 ∧ o = .error .underflow ∧
        (2 ^ (128 * n) / p < 2 ^ (64 * n) * (2 ^ (64 * n) / p) ∨ 2 ^ (64 * n) < 2 ^ (64 * n) / p * p)) ∨
      (p ≠ 0 ∧
        o = .ok ⟨2 ^ (64 * n) / p, 2 ^ (128 * n) / p - 2 ^ (64 * n) * (2 ^ (64 * n) / p),
          2 ^ (64 * n) - 2 ^ (64 * n) / p * p⟩) := by
  subst h
  by_cases hp : p = 0
  · exact .inl ⟨hp, by simp [barrettConstants, hp]⟩
  · rcases subtract_cases (2 ^ (128 * n) / p) (2 ^ (64 * n) * (2 ^ (64 * n) / p)) with ⟨h1, e1⟩ | ⟨h1, e1⟩
    · exact .inr (.inl ⟨hp, by simp [barrettConstants, hp, e1], .inl h1⟩)
    · rcases subtract_cases (2 ^ (64 * n)) (2 ^ (64 * n) / p * p) with ⟨h2, e2⟩ | ⟨h2, e2⟩
      · exact .inr (.inl ⟨hp, by simp [barrettConstants, hp, e1, e2], .inr h2⟩)
      · exact .inr (.inr ⟨hp, by simp [barrettConstants, hp, e1, e2]⟩)

/-! ### The output buffer -/

@[simp] theorem limbSequence_length (lmax n x : Nat) : (limbSequence lmax n x).length = lmax := by
  simp [limbSequence]

/-- Entry `j` of what DECOMP writes (spec R137). -/
theorem limbSequence_getD (lmax n x j : Nat) :
    (limbSequence lmax n x).getD j 0 = if j < lmax then if j < n then limb x j else 0 else 0 := by
  by_cases h : j < lmax <;> simp [limbSequence, List.getD, h]

end Sys2Proof.Machine
end

