-- ==== Sys2Proof/Laws/State.lean ====
section
/-! SUPPORT. What each update of the state leaves in each field, so that no proof unfolds an update. -/

namespace Sys2Proof.Machine

open Sys2Proof

variable (s : State)

/-! `X[i] <- v` -/

@[simp] theorem State.setX_cfg (i : XIdx) (v : Nat) : (s.setX i v).cfg = s.cfg := rfl
@[simp] theorem State.setX_xs (i : XIdx) (v : Nat) : (s.setX i v).xs = s.xs.set v i := rfl
@[simp] theorem State.setX_n (i : XIdx) (v : Nat) : (s.setX i v).n = s.n := rfl
@[simp] theorem State.setX_din (i : XIdx) (v : Nat) : (s.setX i v).din = s.din := rfl
@[simp] theorem State.setX_dout (i : XIdx) (v : Nat) : (s.setX i v).dout = s.dout := rfl
@[simp] theorem State.setX_obuf (i : XIdx) (v : Nat) : (s.setX i v).obuf = s.obuf := rfl
@[simp] theorem State.setX_ocnt (i : XIdx) (v : Nat) : (s.setX i v).ocnt = s.ocnt := rfl
@[simp] theorem State.setX_errcmd (i : XIdx) (v : Nat) : (s.setX i v).errcmd = s.errcmd := rfl
@[simp] theorem State.setX_ie (i : XIdx) (v : Nat) : (s.setX i v).ie = s.ie := rfl
@[simp] theorem State.setX_busy (i : XIdx) (v : Nat) : (s.setX i v).busy = s.busy := rfl
@[simp] theorem State.setX_done (i : XIdx) (v : Nat) : (s.setX i v).done = s.done := rfl
@[simp] theorem State.setX_trunc (i : XIdx) (v : Nat) : (s.setX i v).trunc = s.trunc := rfl
@[simp] theorem State.setX_ovr (i : XIdx) (v : Nat) : (s.setX i v).ovr = s.ovr := rfl
@[simp] theorem State.setX_err (i : XIdx) (v : Nat) : (s.setX i v).err = s.err := rfl
@[simp] theorem State.setX_cur (i : XIdx) (v : Nat) : (s.setX i v).cur = s.cur := rfl
@[simp] theorem State.setX_rst (i : XIdx) (v : Nat) : (s.setX i v).rst = s.rst := rfl
@[simp] theorem State.setX_arrivals (i : XIdx) (v : Nat) : (s.setX i v).arrivals = s.arrivals := rfl
@[simp] theorem State.setX_resp (i : XIdx) (v : Nat) : (s.setX i v).resp = s.resp := rfl
@[simp] theorem State.setX_draws (i : XIdx) (v : Nat) : (s.setX i v).draws = s.draws := rfl

/-! the error writes (spec R176) -/

@[simp] theorem State.raise_cfg (e : ErrorCode) : (s.raise e).cfg = s.cfg := rfl
@[simp] theorem State.raise_xs (e : ErrorCode) : (s.raise e).xs = s.xs := rfl
@[simp] theorem State.raise_n (e : ErrorCode) : (s.raise e).n = s.n := rfl
@[simp] theorem State.raise_din (e : ErrorCode) : (s.raise e).din = s.din := rfl
@[simp] theorem State.raise_dout (e : ErrorCode) : (s.raise e).dout = s.dout := rfl
@[simp] theorem State.raise_obuf (e : ErrorCode) : (s.raise e).obuf = s.obuf := rfl
@[simp] theorem State.raise_ocnt (e : ErrorCode) : (s.raise e).ocnt = s.ocnt := rfl
@[simp] theorem State.raise_errcmd (e : ErrorCode) : (s.raise e).errcmd = s.cur.setWidth 64 := rfl
@[simp] theorem State.raise_ie (e : ErrorCode) : (s.raise e).ie = s.ie := rfl
@[simp] theorem State.raise_busy (e : ErrorCode) : (s.raise e).busy = s.busy := rfl
@[simp] theorem State.raise_done (e : ErrorCode) : (s.raise e).done = s.done := rfl
@[simp] theorem State.raise_trunc (e : ErrorCode) : (s.raise e).trunc = s.trunc := rfl
@[simp] theorem State.raise_ovr (e : ErrorCode) : (s.raise e).ovr = s.ovr := rfl
@[simp] theorem State.raise_err (e : ErrorCode) : (s.raise e).err = e.code := rfl
@[simp] theorem State.raise_cur (e : ErrorCode) : (s.raise e).cur = s.cur := rfl
@[simp] theorem State.raise_rst (e : ErrorCode) : (s.raise e).rst = s.rst := rfl
@[simp] theorem State.raise_arrivals (e : ErrorCode) : (s.raise e).arrivals = s.arrivals := rfl
@[simp] theorem State.raise_resp (e : ErrorCode) : (s.raise e).resp = s.resp := rfl
@[simp] theorem State.raise_draws (e : ErrorCode) : (s.raise e).draws = s.draws := rfl
@[simp] theorem State.raise_x (e : ErrorCode) (r : XIdx) : (s.raise e).x r = s.x r := rfl

/-! the completion writes (spec R177) -/

@[simp] theorem State.complete_cfg : (s.complete).cfg = s.cfg := rfl
@[simp] theorem State.complete_xs : (s.complete).xs = s.xs := rfl
@[simp] theorem State.complete_n : (s.complete).n = s.n := rfl
@[simp] theorem State.complete_din : (s.complete).din = s.din := rfl
@[simp] theorem State.complete_dout : (s.complete).dout = s.dout := rfl
@[simp] theorem State.complete_obuf : (s.complete).obuf = s.obuf := rfl
@[simp] theorem State.complete_ocnt : (s.complete).ocnt = s.ocnt := rfl
@[simp] theorem State.complete_errcmd : (s.complete).errcmd = s.errcmd := rfl
@[simp] theorem State.complete_ie : (s.complete).ie = s.ie := rfl
@[simp] theorem State.complete_busy : (s.complete).busy = false := rfl
@[simp] theorem State.complete_done : (s.complete).done = true := rfl
@[simp] theorem State.complete_trunc : (s.complete).trunc = s.trunc := rfl
@[simp] theorem State.complete_ovr : (s.complete).ovr = s.ovr := rfl
@[simp] theorem State.complete_err : (s.complete).err = s.err := rfl
@[simp] theorem State.complete_cur : (s.complete).cur = s.cur := rfl
@[simp] theorem State.complete_rst : (s.complete).rst = s.rst := rfl
@[simp] theorem State.complete_arrivals : (s.complete).arrivals = s.arrivals := rfl
@[simp] theorem State.complete_resp : (s.complete).resp = s.resp := rfl
@[simp] theorem State.complete_draws : (s.complete).draws = s.draws := rfl
@[simp] theorem State.complete_x (r : XIdx) : (s.complete).x r = s.x r := rfl

/-! ERRCLR (spec R178) -/

@[simp] theorem State.errClear_cfg : (s.errClear).cfg = s.cfg := rfl
@[simp] theorem State.errClear_xs : (s.errClear).xs = s.xs := rfl
@[simp] theorem State.errClear_n : (s.errClear).n = s.n := rfl
@[simp] theorem State.errClear_din : (s.errClear).din = s.din := rfl
@[simp] theorem State.errClear_dout : (s.errClear).dout = s.dout := rfl
@[simp] theorem State.errClear_obuf : (s.errClear).obuf = s.obuf := rfl
@[simp] theorem State.errClear_ocnt : (s.errClear).ocnt = s.ocnt := rfl
@[simp] theorem State.errClear_errcmd : (s.errClear).errcmd = s.errcmd := rfl
@[simp] theorem State.errClear_ie : (s.errClear).ie = s.ie := rfl
@[simp] theorem State.errClear_busy : (s.errClear).busy = s.busy := rfl
@[simp] theorem State.errClear_done : (s.errClear).done = s.done := rfl
@[simp] theorem State.errClear_trunc : (s.errClear).trunc = s.trunc := rfl
@[simp] theorem State.errClear_ovr : (s.errClear).ovr = s.ovr := rfl
@[simp] theorem State.errClear_err : (s.errClear).err = 0 := rfl
@[simp] theorem State.errClear_cur : (s.errClear).cur = s.cur := rfl
@[simp] theorem State.errClear_rst : (s.errClear).rst = s.rst := rfl
@[simp] theorem State.errClear_arrivals : (s.errClear).arrivals = s.arrivals := rfl
@[simp] theorem State.errClear_resp : (s.errClear).resp = s.resp := rfl
@[simp] theorem State.errClear_draws : (s.errClear).draws = s.draws := rfl
@[simp] theorem State.errClear_x (r : XIdx) : (s.errClear).x r = s.x r := rfl

/-! command acceptance (spec R34) -/

@[simp] theorem State.accept_cfg (c : CmdWord) : (s.accept c).cfg = s.cfg := rfl
@[simp] theorem State.accept_xs (c : CmdWord) : (s.accept c).xs = s.xs := rfl
@[simp] theorem State.accept_n (c : CmdWord) : (s.accept c).n = s.n := rfl
@[simp] theorem State.accept_din (c : CmdWord) : (s.accept c).din = s.din := rfl
@[simp] theorem State.accept_dout (c : CmdWord) : (s.accept c).dout = s.dout := rfl
@[simp] theorem State.accept_obuf (c : CmdWord) : (s.accept c).obuf = s.obuf := rfl
@[simp] theorem State.accept_ocnt (c : CmdWord) : (s.accept c).ocnt = s.ocnt := rfl
@[simp] theorem State.accept_errcmd (c : CmdWord) : (s.accept c).errcmd = s.errcmd := rfl
@[simp] theorem State.accept_ie (c : CmdWord) : (s.accept c).ie = s.ie := rfl
@[simp] theorem State.accept_busy (c : CmdWord) : (s.accept c).busy = true := rfl
@[simp] theorem State.accept_done (c : CmdWord) : (s.accept c).done = false := rfl
@[simp] theorem State.accept_trunc (c : CmdWord) : (s.accept c).trunc = s.trunc := rfl
@[simp] theorem State.accept_ovr (c : CmdWord) : (s.accept c).ovr = s.ovr := rfl
@[simp] theorem State.accept_err (c : CmdWord) : (s.accept c).err = s.err := rfl
@[simp] theorem State.accept_cur (c : CmdWord) : (s.accept c).cur = c := rfl
@[simp] theorem State.accept_rst (c : CmdWord) : (s.accept c).rst = s.rst := rfl
@[simp] theorem State.accept_arrivals (c : CmdWord) : (s.accept c).arrivals = s.arrivals := rfl
@[simp] theorem State.accept_resp (c : CmdWord) : (s.accept c).resp = s.resp := rfl
@[simp] theorem State.accept_draws (c : CmdWord) : (s.accept c).draws = s.draws := rfl
@[simp] theorem State.accept_x (c : CmdWord) (r : XIdx) : (s.accept c).x r = s.x r := rfl

/-! a dropped write (spec R34) -/

@[simp] theorem State.dropWrite_cfg : (s.dropWrite).cfg = s.cfg := rfl
@[simp] theorem State.dropWrite_xs : (s.dropWrite).xs = s.xs := rfl
@[simp] theorem State.dropWrite_n : (s.dropWrite).n = s.n := rfl
@[simp] theorem State.dropWrite_din : (s.dropWrite).din = s.din := rfl
@[simp] theorem State.dropWrite_dout : (s.dropWrite).dout = s.dout := rfl
@[simp] theorem State.dropWrite_obuf : (s.dropWrite).obuf = s.obuf := rfl
@[simp] theorem State.dropWrite_ocnt : (s.dropWrite).ocnt = s.ocnt := rfl
@[simp] theorem State.dropWrite_errcmd : (s.dropWrite).errcmd = s.errcmd := rfl
@[simp] theorem State.dropWrite_ie : (s.dropWrite).ie = s.ie := rfl
@[simp] theorem State.dropWrite_busy : (s.dropWrite).busy = s.busy := rfl
@[simp] theorem State.dropWrite_done : (s.dropWrite).done = s.done := rfl
@[simp] theorem State.dropWrite_trunc : (s.dropWrite).trunc = s.trunc := rfl
@[simp] theorem State.dropWrite_ovr : (s.dropWrite).ovr = true := rfl
@[simp] theorem State.dropWrite_err : (s.dropWrite).err = s.err := rfl
@[simp] theorem State.dropWrite_cur : (s.dropWrite).cur = s.cur := rfl
@[simp] theorem State.dropWrite_rst : (s.dropWrite).rst = s.rst := rfl
@[simp] theorem State.dropWrite_arrivals : (s.dropWrite).arrivals = s.arrivals := rfl
@[simp] theorem State.dropWrite_resp : (s.dropWrite).resp = s.resp := rfl
@[simp] theorem State.dropWrite_draws : (s.dropWrite).draws = s.draws := rfl
@[simp] theorem State.dropWrite_x (r : XIdx) : (s.dropWrite).x r = s.x r := rfl

/-! the reset of the block (spec R200) -/

@[simp] theorem State.resetBlock_cfg : (s.resetBlock).cfg = s.cfg := rfl
@[simp] theorem State.resetBlock_xs : (s.resetBlock).xs = ⟨0, 0, 0, 0, 0, 0, 0, 0⟩ := rfl
@[simp] theorem State.resetBlock_n : (s.resetBlock).n = 0 := rfl
@[simp] theorem State.resetBlock_din : (s.resetBlock).din = 0 := rfl
@[simp] theorem State.resetBlock_dout : (s.resetBlock).dout = 0 := rfl
@[simp] theorem State.resetBlock_obuf : (s.resetBlock).obuf = List.replicate s.cfg.lmax 0 := rfl
@[simp] theorem State.resetBlock_ocnt : (s.resetBlock).ocnt = 0 := rfl
@[simp] theorem State.resetBlock_errcmd : (s.resetBlock).errcmd = 0 := rfl
@[simp] theorem State.resetBlock_ie : (s.resetBlock).ie = false := rfl
@[simp] theorem State.resetBlock_busy : (s.resetBlock).busy = false := rfl
@[simp] theorem State.resetBlock_done : (s.resetBlock).done = false := rfl
@[simp] theorem State.resetBlock_trunc : (s.resetBlock).trunc = false := rfl
@[simp] theorem State.resetBlock_ovr : (s.resetBlock).ovr = false := rfl
@[simp] theorem State.resetBlock_err : (s.resetBlock).err = 0 := rfl
@[simp] theorem State.resetBlock_cur : (s.resetBlock).cur = 0 := rfl
@[simp] theorem State.resetBlock_rst : (s.resetBlock).rst = s.rst := rfl
@[simp] theorem State.resetBlock_arrivals : (s.resetBlock).arrivals = s.arrivals := rfl
@[simp] theorem State.resetBlock_resp : (s.resetBlock).resp = none := rfl
@[simp] theorem State.resetBlock_draws : (s.resetBlock).draws = s.draws := rfl

/-! a refused access (spec R54) -/

@[simp] theorem State.refuseAccess_cfg : (s.refuseAccess).cfg = s.cfg := rfl
@[simp] theorem State.refuseAccess_xs : (s.refuseAccess).xs = s.xs := rfl
@[simp] theorem State.refuseAccess_n : (s.refuseAccess).n = s.n := rfl
@[simp] theorem State.refuseAccess_din : (s.refuseAccess).din = s.din := rfl
@[simp] theorem State.refuseAccess_dout : (s.refuseAccess).dout = s.dout := rfl
@[simp] theorem State.refuseAccess_obuf : (s.refuseAccess).obuf = s.obuf := rfl
@[simp] theorem State.refuseAccess_ocnt : (s.refuseAccess).ocnt = s.ocnt := rfl
@[simp] theorem State.refuseAccess_errcmd : (s.refuseAccess).errcmd = s.errcmd := rfl
@[simp] theorem State.refuseAccess_ie : (s.refuseAccess).ie = s.ie := rfl
@[simp] theorem State.refuseAccess_busy : (s.refuseAccess).busy = s.busy := rfl
@[simp] theorem State.refuseAccess_done : (s.refuseAccess).done = s.done := rfl
@[simp] theorem State.refuseAccess_trunc : (s.refuseAccess).trunc = s.trunc := rfl
@[simp] theorem State.refuseAccess_ovr : (s.refuseAccess).ovr = s.ovr := rfl
@[simp] theorem State.refuseAccess_err : (s.refuseAccess).err = s.err := rfl
@[simp] theorem State.refuseAccess_cur : (s.refuseAccess).cur = s.cur := rfl
@[simp] theorem State.refuseAccess_rst : (s.refuseAccess).rst = s.rst := rfl
@[simp] theorem State.refuseAccess_arrivals : (s.refuseAccess).arrivals = s.arrivals := rfl
@[simp] theorem State.refuseAccess_resp : (s.refuseAccess).resp = some (.busError 0) := rfl
@[simp] theorem State.refuseAccess_draws : (s.refuseAccess).draws = s.draws := rfl
@[simp] theorem State.refuseAccess_x (r : XIdx) : (s.refuseAccess).x r = s.x r := rfl

/-! an unanswered access (spec R200) -/

@[simp] theorem State.unanswered_cfg : (s.unanswered).cfg = s.cfg := rfl
@[simp] theorem State.unanswered_xs : (s.unanswered).xs = s.xs := rfl
@[simp] theorem State.unanswered_n : (s.unanswered).n = s.n := rfl
@[simp] theorem State.unanswered_din : (s.unanswered).din = s.din := rfl
@[simp] theorem State.unanswered_dout : (s.unanswered).dout = s.dout := rfl
@[simp] theorem State.unanswered_obuf : (s.unanswered).obuf = s.obuf := rfl
@[simp] theorem State.unanswered_ocnt : (s.unanswered).ocnt = s.ocnt := rfl
@[simp] theorem State.unanswered_errcmd : (s.unanswered).errcmd = s.errcmd := rfl
@[simp] theorem State.unanswered_ie : (s.unanswered).ie = s.ie := rfl
@[simp] theorem State.unanswered_busy : (s.unanswered).busy = s.busy := rfl
@[simp] theorem State.unanswered_done : (s.unanswered).done = s.done := rfl
@[simp] theorem State.unanswered_trunc : (s.unanswered).trunc = s.trunc := rfl
@[simp] theorem State.unanswered_ovr : (s.unanswered).ovr = s.ovr := rfl
@[simp] theorem State.unanswered_err : (s.unanswered).err = s.err := rfl
@[simp] theorem State.unanswered_cur : (s.unanswered).cur = s.cur := rfl
@[simp] theorem State.unanswered_rst : (s.unanswered).rst = s.rst := rfl
@[simp] theorem State.unanswered_arrivals : (s.unanswered).arrivals = s.arrivals := rfl
@[simp] theorem State.unanswered_resp : (s.unanswered).resp = none := rfl
@[simp] theorem State.unanswered_draws : (s.unanswered).draws = s.draws := rfl
@[simp] theorem State.unanswered_x (r : XIdx) : (s.unanswered).x r = s.x r := rfl

/-! a STATUS write (spec R29) -/

@[simp] theorem State.statusWrite_cfg (d : Word) : (s.statusWrite d).cfg = s.cfg := rfl
@[simp] theorem State.statusWrite_xs (d : Word) : (s.statusWrite d).xs = s.xs := rfl
@[simp] theorem State.statusWrite_n (d : Word) : (s.statusWrite d).n = s.n := rfl
@[simp] theorem State.statusWrite_din (d : Word) : (s.statusWrite d).din = s.din := rfl
@[simp] theorem State.statusWrite_dout (d : Word) : (s.statusWrite d).dout = s.dout := rfl
@[simp] theorem State.statusWrite_obuf (d : Word) : (s.statusWrite d).obuf = s.obuf := rfl
@[simp] theorem State.statusWrite_ocnt (d : Word) : (s.statusWrite d).ocnt = s.ocnt := rfl
@[simp] theorem State.statusWrite_errcmd (d : Word) : (s.statusWrite d).errcmd = s.errcmd := rfl
@[simp] theorem State.statusWrite_ie (d : Word) : (s.statusWrite d).ie = s.ie := rfl
@[simp] theorem State.statusWrite_busy (d : Word) : (s.statusWrite d).busy = s.busy := rfl
@[simp] theorem State.statusWrite_done (d : Word) : (s.statusWrite d).done = (s.done && !d[1]) := rfl
@[simp] theorem State.statusWrite_trunc (d : Word) : (s.statusWrite d).trunc = (s.trunc && !d[2]) := rfl
@[simp] theorem State.statusWrite_ovr (d : Word) : (s.statusWrite d).ovr = (s.ovr && !d[3]) := rfl
@[simp] theorem State.statusWrite_err (d : Word) : (s.statusWrite d).err = s.err := rfl
@[simp] theorem State.statusWrite_cur (d : Word) : (s.statusWrite d).cur = s.cur := rfl
@[simp] theorem State.statusWrite_rst (d : Word) : (s.statusWrite d).rst = s.rst := rfl
@[simp] theorem State.statusWrite_arrivals (d : Word) : (s.statusWrite d).arrivals = s.arrivals := rfl
@[simp] theorem State.statusWrite_resp (d : Word) : (s.statusWrite d).resp = s.resp := rfl
@[simp] theorem State.statusWrite_draws (d : Word) : (s.statusWrite d).draws = s.draws := rfl
@[simp] theorem State.statusWrite_x (d : Word) (r : XIdx) : (s.statusWrite d).x r = s.x r := rfl

/-! the state after reset (spec R38) -/

@[simp] theorem State.resetWith_cfg (c : Config) : (State.resetWith c).cfg = c := rfl
@[simp] theorem State.resetWith_xs (c : Config) : (State.resetWith c).xs = ⟨0, 0, 0, 0, 0, 0, 0, 0⟩ := rfl
@[simp] theorem State.resetWith_n (c : Config) : (State.resetWith c).n = 0 := rfl
@[simp] theorem State.resetWith_din (c : Config) : (State.resetWith c).din = 0 := rfl
@[simp] theorem State.resetWith_dout (c : Config) : (State.resetWith c).dout = 0 := rfl
@[simp] theorem State.resetWith_obuf (c : Config) : (State.resetWith c).obuf = List.replicate c.lmax 0 := rfl
@[simp] theorem State.resetWith_ocnt (c : Config) : (State.resetWith c).ocnt = 0 := rfl
@[simp] theorem State.resetWith_errcmd (c : Config) : (State.resetWith c).errcmd = 0 := rfl
@[simp] theorem State.resetWith_ie (c : Config) : (State.resetWith c).ie = false := rfl
@[simp] theorem State.resetWith_busy (c : Config) : (State.resetWith c).busy = false := rfl
@[simp] theorem State.resetWith_done (c : Config) : (State.resetWith c).done = false := rfl
@[simp] theorem State.resetWith_trunc (c : Config) : (State.resetWith c).trunc = false := rfl
@[simp] theorem State.resetWith_ovr (c : Config) : (State.resetWith c).ovr = false := rfl
@[simp] theorem State.resetWith_err (c : Config) : (State.resetWith c).err = 0 := rfl
@[simp] theorem State.resetWith_cur (c : Config) : (State.resetWith c).cur = 0 := rfl
@[simp] theorem State.resetWith_rst (c : Config) : (State.resetWith c).rst = false := rfl
@[simp] theorem State.resetWith_arrivals (c : Config) : (State.resetWith c).arrivals = [] := rfl
@[simp] theorem State.resetWith_resp (c : Config) : (State.resetWith c).resp = none := rfl
@[simp] theorem State.resetWith_draws (c : Config) : (State.resetWith c).draws = 0 := rfl

end Sys2Proof.Machine
end

