-- ==== Sys2Proof/Laws/Ops.lean ====
section
/-! SUPPORT. What the shared operations on the state can do: the register file, the end of a command, the resets. -/

namespace Sys2Proof.Machine

open Sys2Proof

/-! ### The big-integer registers -/

theorem XRegs.get_set (r : XRegs) (v : Nat) (i j : XIdx) : (r.set v i).get j = if j = i then v else r.get j := by
  fin_cases i <;> fin_cases j <;> rfl

theorem XRegs.set_get (r : XRegs) (i : XIdx) : r.set (r.get i) i = r := by
  fin_cases i <;> rfl

theorem State.x_setX (s : State) (i j : XIdx) (v : Nat) : (s.setX i v).x j = if j = i then v else s.x j :=
  XRegs.get_set s.xs v i j

@[simp] theorem State.x_setX_same (s : State) (i : XIdx) (v : Nat) : (s.setX i v).x i = v := by
  simp [State.x_setX]

theorem State.x_setX_ne (s : State) {i j : XIdx} (v : Nat) (h : j ≠ i) : (s.setX i v).x j = s.x j := by
  simp [State.x_setX, h]

@[simp] theorem State.setX_x (s : State) (i : XIdx) : s.setX i (s.x i) = s := by
  simp [State.setX, State.x, XRegs.set_get]

@[simp] theorem XRegs.get_zero (i : XIdx) : (⟨0, 0, 0, 0, 0, 0, 0, 0⟩ : XRegs).get i = 0 := by
  fin_cases i <;> rfl

@[simp] theorem State.x_resetWith (c : Config) (i : XIdx) : (State.resetWith c).x i = 0 := XRegs.get_zero i

@[simp] theorem State.x_resetBlock (s : State) (i : XIdx) : s.resetBlock.x i = 0 := XRegs.get_zero i

theorem State.setTriple_x (s : State) (rd : XIdx) (c : BarrettConstants) (j : XIdx) :
    (s.setTriple rd c).x j =
      if j = rd + 2 then c.t else if j = rd + 1 then c.s else if j = rd then c.r else s.x j := by
  simp [State.setTriple, State.x_setX]

/-- The triple's writes touch no field but the registers. -/
theorem State.setTriple_frame (s : State) (rd : XIdx) (c : BarrettConstants) :
    { s.setTriple rd c with xs := s.xs } = s := rfl

/-! ### The end of a command -/

@[simp] theorem commit_ok (s t : State) : commit s (.ok t) = .next t.complete := rfl

@[simp] theorem commit_error (s : State) (e : ErrorCode) : commit s (.error e) = .next (s.raise e).complete := rfl

/-- All a command's end can do (spec R175 to R177): it answers a next state, of the writes or of the error taken. -/
theorem commit_cases {s : State} {r : Except ErrorCode State} {o : Host.Outcome State Fault Refusal}
    (h : commit s r = o) :
    (∃ t, r = .ok t ∧ o = .next t.complete) ∨ ∃ e, r = .error e ∧ o = .next (s.raise e).complete := by
  cases r with
  | ok t => exact .inl ⟨t, rfl, h.symm⟩
  | error e => exact .inr ⟨e, rfl, h.symm⟩

theorem commit_isNext (s : State) (r : Except ErrorCode State) : ∃ t, commit s r = .next t := by
  cases r <;> exact ⟨_, rfl⟩

/-- A command that writes one register or raises an error. -/
theorem commit_map_setX {s : State} {r : Except ErrorCode Nat} {rd : XIdx} {o : Host.Outcome State Fault Refusal}
    (h : commit s (r.map (s.setX rd)) = o) :
    (∃ v, r = .ok v ∧ o = .next (s.setX rd v).complete) ∨ ∃ e, r = .error e ∧ o = .next (s.raise e).complete := by
  cases r with
  | ok v => exact .inl ⟨v, rfl, h.symm⟩
  | error e => exact .inr ⟨e, rfl, h.symm⟩

/-- The code of an error is one of 1 to 5 (spec R171). -/
theorem ErrorCode.code_range (e : ErrorCode) : 1 ≤ e.code.toNat ∧ e.code.toNat ≤ 5 := by
  cases e <;> decide

/-! ### Reset -/

/-- All a level on RST can do (spec R200): reset and hold, reset and release, or nothing. -/
theorem State.rstLevel_cases (s : State) (level : Bool) :
    (rstAsserts s.cfg level = true ∧ s.rstLevel level = { s.resetBlock with rst := true }) ∨
      (rstAsserts s.cfg level = false ∧ s.rst = true ∧ s.rstLevel level = { s.resetBlock with rst := false }) ∨
      (rstAsserts s.cfg level = false ∧ s.rst = false ∧ s.rstLevel level = s) := by
  unfold State.rstLevel
  cases hl : rstAsserts s.cfg level <;> cases hr : s.rst <;> simp

end Sys2Proof.Machine
end

