-- ==== Sys2Proof/Laws/Exec.lean ====
section
/-! SUPPORT. What each command can do, said once: a next state always, of its writes or of the error it takes. -/

namespace Sys2Proof.Machine

open Sys2Proof

/-- What a command does is the end of its writes or of an error (spec R175 to R177). -/
theorem exec_eq_commit (i : Instr) (s : State) : ∃ r, exec i s = commit s r := by
  cases i <;>
    simp only [exec, execNop, execSetn, execClr, execMov, execLdl, execPow2, execPow2n,
      execDiv, execMul, execSub, execLimb, execDecomp, execBarrett] <;>
    exact ⟨_, rfl⟩

/-- Every command ends in a next state (spec R10, R177). -/
theorem exec_isNext (i : Instr) (s : State) : ∃ t, exec i s = .next t := by
  obtain ⟨r, h⟩ := exec_eq_commit i s
  exact h ▸ commit_isNext s r

theorem execDiv_cases {d a b : XIdx} {s : State} {o : Host.Outcome State Fault Refusal} (h : execDiv d a b s = o) :
    (s.x b = 0 ∧ o = .next (s.raise .divisionByZero).complete) ∨
      (s.x b ≠ 0 ∧ o = .next (s.setX d (s.x a / s.x b)).complete) := by
  subst h; unfold execDiv
  rcases floorDiv_cases (s.x a) (s.x b) with ⟨hb, e⟩ | ⟨hb, e⟩
  · exact .inl ⟨hb, by rw [e]; rfl⟩
  · exact .inr ⟨hb, by rw [e]; rfl⟩

theorem execMul_cases {d a b : XIdx} {s : State} {o : Host.Outcome State Fault Refusal} (h : execMul d a b s = o) :
    (2 ^ s.cfg.cap ≤ s.x a * s.x b ∧ o = .next (s.raise .capacityOverflow).complete) ∨
      (s.x a * s.x b < 2 ^ s.cfg.cap ∧ o = .next (s.setX d (s.x a * s.x b)).complete) := by
  subst h; unfold execMul
  rcases multiply_cases s.cfg.cap (s.x a) (s.x b) with ⟨hb, e⟩ | ⟨hb, e⟩
  · exact .inl ⟨hb, by rw [e]; rfl⟩
  · exact .inr ⟨hb, by rw [e]; rfl⟩

theorem execSub_cases {d a b : XIdx} {s : State} {o : Host.Outcome State Fault Refusal} (h : execSub d a b s = o) :
    (s.x a < s.x b ∧ o = .next (s.raise .underflow).complete) ∨
      (s.x b ≤ s.x a ∧ o = .next (s.setX d (s.x a - s.x b)).complete) := by
  subst h; unfold execSub
  rcases subtract_cases (s.x a) (s.x b) with ⟨hb, e⟩ | ⟨hb, e⟩
  · exact .inl ⟨hb, by rw [e]; rfl⟩
  · exact .inr ⟨hb, by rw [e]; rfl⟩

theorem execPow2_cases {d : XIdx} {e : BitVec 16} {s : State} {o : Host.Outcome State Fault Refusal}
    (h : execPow2 d e s = o) :
    (s.cfg.cap ≤ e.toNat ∧ o = .next (s.raise .capacityOverflow).complete) ∨
      (e.toNat < s.cfg.cap ∧ o = .next (s.setX d (2 ^ e.toNat)).complete) := by
  subst h; unfold execPow2
  rcases powerOfTwo_cases s.cfg.cap e.toNat with ⟨hb, e'⟩ | ⟨hb, e'⟩
  · exact .inl ⟨hb, by rw [e']; rfl⟩
  · exact .inr ⟨hb, by rw [e']; rfl⟩

theorem execPow2n_cases {d : XIdx} {m : BitVec 16} {s : State} {o : Host.Outcome State Fault Refusal}
    (h : execPow2n d m s = o) :
    (s.n = 0 ∧ o = .next (s.raise .invalidParameters).complete) ∨
      (s.n ≠ 0 ∧ s.cfg.cap ≤ 64 * s.n.toNat * m.toNat ∧ o = .next (s.raise .capacityOverflow).complete) ∨
      (s.n ≠ 0 ∧ 64 * s.n.toNat * m.toNat < s.cfg.cap ∧
        o = .next (s.setX d (2 ^ (64 * s.n.toNat * m.toNat))).complete) := by
  subst h; unfold execPow2n
  rcases limbCount_cases s with ⟨hn, e⟩ | ⟨hn, e⟩
  · exact .inl ⟨hn, by rw [e]; rfl⟩
  · rcases powerOfTwo_cases s.cfg.cap (64 * s.n.toNat * m.toNat) with ⟨hb, e'⟩ | ⟨hb, e'⟩
    · exact .inr (.inl ⟨hn, hb, by simp only [e, e']; rfl⟩)
    · exact .inr (.inr ⟨hn, hb, by simp only [e, e']; rfl⟩)

theorem execSetn_cases {k : BitVec 16} {s : State} {o : Host.Outcome State Fault Refusal} (h : execSetn k s = o) :
    ((k.toNat = 0 ∨ s.cfg.lmax < k.toNat) ∧ o = .next (s.raise .invalidParameters).complete) ∨
      (k.toNat ≠ 0 ∧ k.toNat ≤ s.cfg.lmax ∧ o = .next { s with n := k, busy := false, done := true }) := by
  subst h; unfold execSetn
  by_cases hk : k.toNat = 0 ∨ s.cfg.lmax < k.toNat
  · exact .inl ⟨hk, by rw [if_pos hk]; rfl⟩
  · refine .inr ⟨by omega, by omega, by rw [if_neg hk]; rfl⟩

theorem execLdl_cases {d : XIdx} {j : BitVec 16} {s : State} {o : Host.Outcome State Fault Refusal}
    (h : execLdl d j s = o) :
    (s.cfg.k ≤ j.toNat ∧ o = .next (s.raise .capacityOverflow).complete) ∨
      (j.toNat < s.cfg.k ∧ o = .next (s.setX d (replaceLimb (s.x d) j.toNat s.din)).complete) := by
  subst h; unfold execLdl
  by_cases hj : s.cfg.k ≤ j.toNat
  · exact .inl ⟨hj, by rw [if_pos hj]; rfl⟩
  · exact .inr ⟨by omega, by rw [if_neg hj]; rfl⟩

theorem execDecomp_cases {p : XIdx} {s : State} {o : Host.Outcome State Fault Refusal} (h : execDecomp p s = o) :
    (s.n = 0 ∧ o = .next (s.raise .invalidParameters).complete) ∨
      (s.n ≠ 0 ∧
        o = .next
          { s with
            obuf := limbSequence s.cfg.lmax s.n.toNat (s.x p)
            ocnt := s.n
            trunc := truncAfter s.trunc s.n.toNat (s.x p)
            busy := false
            done := true }) := by
  subst h; unfold execDecomp
  rcases limbCount_cases s with ⟨hn, e⟩ | ⟨hn, e⟩
  · exact .inl ⟨hn, by rw [e]; rfl⟩
  · exact .inr ⟨hn, by rw [e]; rfl⟩

theorem execBarrett_cases {d p : XIdx} {s : State} {o : Host.Outcome State Fault Refusal}
    (h : execBarrett d p s = o) :
    (5 < d.val ∧ o = .next (s.raise .illegalCommand).complete) ∨
      (d.val ≤ 5 ∧ s.n = 0 ∧ o = .next (s.raise .invalidParameters).complete) ∨
      (d.val ≤ 5 ∧ s.n ≠ 0 ∧ ∃ e, barrettConstants s.n.toNat (s.x p) = .error e ∧
        o = .next (s.raise e).complete) ∨
      (d.val ≤ 5 ∧ s.n ≠ 0 ∧ ∃ c, barrettConstants s.n.toNat (s.x p) = .ok c ∧
        o = .next (s.setTriple d c).complete) := by
  subst h; unfold execBarrett
  by_cases hd : 5 < d.val
  · exact .inl ⟨hd, by rw [if_pos hd]; rfl⟩
  · rw [if_neg hd]
    rcases limbCount_cases s with ⟨hn, e⟩ | ⟨hn, e⟩
    · exact .inr (.inl ⟨by omega, hn, by rw [e]; rfl⟩)
    · cases hc : barrettConstants s.n.toNat (s.x p) with
      | error e' => exact .inr (.inr (.inl ⟨by omega, hn, e', rfl, by simp only [e, hc]; rfl⟩))
      | ok c => exact .inr (.inr (.inr ⟨by omega, hn, c, rfl, by simp only [e, hc]; rfl⟩))

end Sys2Proof.Machine
end

