-- ==== Sys2Proof/Laws/Window.lean ====
section
/-! SUPPORT. What the register window can do (spec R50 to R56, R206): its map, one read, one write, one access. -/

namespace Sys2Proof.Machine

open Sys2Proof

/-! ### The map -/

@[simp] theorem windowReg_id (c : Config) : windowReg c 0x000 = .id := rfl
@[simp] theorem windowReg_ctrl (c : Config) : windowReg c 0x008 = .ctrl := rfl
@[simp] theorem windowReg_status (c : Config) : windowReg c 0x010 = .status := rfl
@[simp] theorem windowReg_lcount (c : Config) : windowReg c 0x018 = .lcount := rfl
@[simp] theorem windowReg_cmd (c : Config) : windowReg c 0x020 = .cmd := rfl
@[simp] theorem windowReg_din (c : Config) : windowReg c 0x028 = .din := rfl
@[simp] theorem windowReg_dout (c : Config) : windowReg c 0x030 = .dout := rfl
@[simp] theorem windowReg_errcmd (c : Config) : windowReg c 0x038 = .errcmd := rfl
@[simp] theorem windowReg_ocnt (c : Config) : windowReg c 0x040 = .ocnt := rfl

theorem windowReg_obuf (c : Config) {j : Nat} (h : j < c.lmax) : windowReg c (0x100 + 8 * j) = .obuf j := by
  have past : ∀ off ≤ 0x040, 0x100 + 8 * j ≠ off := fun off _ => by omega
  simp [windowReg, past, h]

@[simp] theorem windowOffset_base (c : Config) {off : Nat} (h : off < 4096) :
    windowOffset c (c.smdcBase + off) = some off := by
  unfold windowOffset; rw [if_pos (by omega)]; congr 1; omega

/-! ### Reads and writes -/

/-- All a permitted read can do (spec R56, R206): an answer, and nothing else but the count of drawn free values. -/
theorem State.readRegister_cases (s : State) (r : WindowReg) :
    (s.busy = true ∧ r.unspecifiedWhileBusy = true ∧
      s.readRegister r =
        { s with resp := some (.readData (Config.busyRead s.draws)), draws := s.draws + 1 }) ∨
      ((s.busy = false ∨ r.unspecifiedWhileBusy = false) ∧
        s.readRegister r = { s with resp := some (.readData (s.windowValue r)) }) := by
  unfold State.readRegister
  cases s.busy <;> cases r.unspecifiedWhileBusy <;> simp

/-- All a CTRL write can do (spec R28). -/
theorem State.ctrlWrite_cases (s : State) (d : Word) :
    (d[1] = true ∧ s.ctrlWrite d = s.resetBlock) ∨
      (d[1] = false ∧ d[2] = true ∧ s.ctrlWrite d = { s with err := 0, ie := d[0] }) ∨
      (d[1] = false ∧ d[2] = false ∧ s.ctrlWrite d = { s with ie := d[0] }) := by
  unfold State.ctrlWrite
  cases d[1] <;> cases d[2] <;> simp [State.errClear]

/-- All a CMD write can do (spec R34). -/
theorem State.cmdWrite_cases (s : State) (d : Word) :
    (s.busy = false ∧ s.err = 0 ∧ s.cmdWrite d = s.accept (d.setWidth 32)) ∨
      ((s.busy = true ∨ s.err ≠ 0) ∧ s.cmdWrite d = s.dropWrite) := by
  unfold State.cmdWrite
  by_cases he : s.err = 0#8 <;> cases s.busy <;> simp [he]

/-- All a DIN write can do (spec R23). -/
theorem State.dinWrite_cases (s : State) (d : Word) :
    (s.busy = true ∧ s.dinWrite d = s.dropWrite) ∨ (s.busy = false ∧ s.dinWrite d = { s with din := d }) := by
  unfold State.dinWrite
  cases s.busy <;> simp

/-- All a host read can do (spec R50, R54). -/
theorem hostRead_cases {addr bits : Nat} {s : State} {o : Host.Outcome State Fault Refusal}
    (h : hostRead addr bits s = o) :
    (windowOffset s.cfg addr = none ∧ o = .fault (.outsideWindow addr)) ∨
      ∃ off, windowOffset s.cfg addr = some off ∧
        ((permitted off bits = true ∧ o = .next (s.readRegister (windowReg s.cfg off))) ∨
          (permitted off bits = false ∧ o = .next s.refuseAccess)) := by
  subst h
  unfold hostRead
  cases windowOffset s.cfg addr with
  | none => exact .inl ⟨rfl, rfl⟩
  | some off =>
    refine .inr ⟨off, rfl, ?_⟩
    cases hp : permitted off bits <;> simp [hp]

/-- All a host write can do (spec R50, R54). -/
theorem hostWrite_cases {addr bits : Nat} {d : Word} {s : State} {o : Host.Outcome State Fault Refusal}
    (h : hostWrite addr bits d s = o) :
    (windowOffset s.cfg addr = none ∧ o = .fault (.outsideWindow addr)) ∨
      ∃ off, windowOffset s.cfg addr = some off ∧
        ((permitted off bits = true ∧ o = .next (s.writeRegister (windowReg s.cfg off) d)) ∨
          (permitted off bits = false ∧ o = .next s.refuseAccess)) := by
  subst h
  unfold hostWrite
  cases windowOffset s.cfg addr with
  | none => exact .inl ⟨rfl, rfl⟩
  | some off =>
    refine .inr ⟨off, rfl, ?_⟩
    cases hp : permitted off bits <;> simp [hp]

/-- A permitted access is 64 bits wide and 8-byte aligned (spec R54). -/
theorem permitted_iff (off bits : Nat) : permitted off bits = true ↔ bits = 64 ∧ off % 8 = 0 := by
  simp [permitted]

end Sys2Proof.Machine
end

