-- ==== Sys2Proof/Laws/Step.lean ====
section
/-! SUPPORT. What one step of the machine can do, said once: by the next arrival (spec R10, R55, R183). -/

namespace Sys2Proof.Machine

open Sys2Proof

/-- A step takes the next arrival, the engine's turn where none is left (log 2). -/
theorem step_eq_arrive (s : State) : step s = arrive s.nextUp s.taken := by
  obtain ⟨l, h⟩ : ∃ l, l = s.arrivals := ⟨_, rfl⟩
  cases l with
  | nil =>
    have hs : s.taken = s := by
      cases s; simp_all [State.taken]
    rw [hs]; simp [step, nextArrival, State.nextUp, ← h]
  | cons a rest => simp [step, nextArrival, State.nextUp, State.taken, ← h]

/-- The complete step of a latched command always answers a next state (spec R76, R177). -/
theorem completeCommand_isNext (s : State) : ∃ t, completeCommand s = .next t := by
  unfold completeCommand
  cases decode s.cur with
  | ok i => exact exec_isNext i s
  | error _ => exact commit_isNext _ _

/-- All the engine's turn can do (spec R10, R190, R200). -/
theorem engineTurn_cases {s : State} {o : Host.Outcome State Fault Refusal} (h : engineTurn s = o) :
    ((s.rst = true ∨ s.busy = false) ∧ o = .next s) ∨
      (s.rst = false ∧ s.busy = true ∧ o = completeCommand s) := by
  subst h; unfold engineTurn
  cases s.rst <;> cases s.busy <;> simp

/-- All the complete step can do (spec R76). -/
theorem completeCommand_cases {s : State} {o : Host.Outcome State Fault Refusal} (h : completeCommand s = o) :
    (∃ i, decode s.cur = .ok i ∧ o = exec i s) ∨
      ∃ e, decode s.cur = .error e ∧ o = .next (s.raise .illegalCommand).complete := by
  subst h; unfold completeCommand
  cases decode s.cur with
  | ok i => exact .inl ⟨i, rfl, rfl⟩
  | error e => exact .inr ⟨e, rfl, rfl⟩

/-- All an arrival can do. -/
theorem arrive_cases {a : Arrival} {s : State} {o : Host.Outcome State Fault Refusal} (h : arrive a s = o) :
    (a = .engineTurn ∧ engineTurn s = o) ∨
      (∃ level, a = .rst level ∧ o = .next (s.rstLevel level)) ∨
      (∃ addr bits, a = .read addr bits ∧
        ((s.rst = true ∧ o = .next s.unanswered) ∨ (s.rst = false ∧ hostRead addr bits s = o))) ∨
      ∃ addr bits d, a = .write addr bits d ∧
        ((s.rst = true ∧ o = .next s.unanswered) ∨ (s.rst = false ∧ hostWrite addr bits d s = o)) := by
  subst h
  cases a with
  | engineTurn => exact .inl ⟨rfl, rfl⟩
  | rst level => exact .inr (.inl ⟨level, rfl, rfl⟩)
  | read addr bits =>
    refine .inr (.inr (.inl ⟨addr, bits, rfl, ?_⟩))
    cases hr : s.rst <;> simp [arrive, hr]
  | write addr bits d =>
    refine .inr (.inr (.inr ⟨addr, bits, d, rfl, ?_⟩))
    cases hr : s.rst <;> simp [arrive, hr]

/-- A permitted write of the window, RST being released, as one step (spec R51, R54). -/
theorem step_writesWindow {s : State} {off : Nat} {d : Word} (h : s.WritesWindow off d) (ho : off < 4096)
    (h8 : off % 8 = 0) : step s = .next (s.taken.writeRegister (windowReg s.cfg off) d) := by
  rw [step_eq_arrive, h.1]
  simp [arrive, h.2, hostWrite, windowOffset_base _ ho, permitted, h8]

/-- A permitted read of the window, RST being released, as one step (spec R51, R54). -/
theorem step_readsWindow {s : State} {off : Nat} (h : s.ReadsWindow off) (ho : off < 4096) (h8 : off % 8 = 0) :
    step s = .next (s.taken.readRegister (windowReg s.cfg off)) := by
  rw [step_eq_arrive, h.1]
  simp [arrive, h.2, hostRead, windowOffset_base _ ho, permitted, h8]

/-- The engine's complete step as one step (spec R10). -/
theorem step_completing {s : State} (h : s.Completing) : step s = completeCommand s.taken := by
  obtain ⟨h1, h2, h3⟩ := h
  rw [step_eq_arrive, h1]
  simp [arrive, engineTurn, h2, h3]

/-- A run whose first step answers a next state goes on from it. -/
theorem run_succ_of_next {k : Nat} {s t : State} (h : step s = .next t) :
    Host.Core.run core (k + 1) s = Host.Core.run core k t := by
  have hc : core.step s = .next t := h
  simp only [Host.Core.run, hc]

@[simp] theorem run_zero (s : State) : Host.Core.run core 0 s = .next s := rfl

end Sys2Proof.Machine
end

