-- ==== Sys2Proof/Laws/HostSequence.lean ====
section
/-! SUPPORT. What a host performing a program can do (spec R79), said once: by the next move; and that its moves are a
run of the machine. -/

namespace Sys2Proof.Machine

open Sys2Proof

/-! ### One arrival -/

/-- The same state with other arrivals still to come. -/
abbrev State.awaiting (rest : List Arrival) (s : State) : State := { s with arrivals := rest }

theorem commit_awaiting {s t : State} {r r' : Except ErrorCode State} (rest : List Arrival)
    (h : commit s r = .next t) (hr : r' = r.map (State.awaiting rest)) :
    commit (s.awaiting rest) r' = .next (t.awaiting rest) := by
  subst hr
  rcases commit_cases h with ⟨u, rfl, e⟩ | ⟨c, rfl, e⟩ <;> cases e <;> rfl

theorem map_setX_awaiting (rest : List Arrival) (s : State) (d : XIdx) (r : Except ErrorCode Nat) :
    r.map ((s.awaiting rest).setX d) = (r.map (s.setX d)).map (State.awaiting rest) := by
  cases r <;> rfl

/-- A command reads nothing of what is still to arrive. -/
theorem exec_awaiting {i : Instr} {s t : State} (rest : List Arrival) (h : exec i s = .next t) :
    exec i (s.awaiting rest) = .next (t.awaiting rest) := by
  have limbs : limbCount (s.awaiting rest) = limbCount s := rfl
  cases i <;>
    simp only [exec, execNop, execSetn, execClr, execMov, execLdl, execPow2, execPow2n, execDiv, execMul, execSub,
      execLimb, execDecomp, execBarrett, limbs] at h ⊢ <;>
    refine commit_awaiting rest h ?_
  case nop => rfl
  case setn k => by_cases hk : k.toNat = 0 ∨ s.cfg.lmax < k.toNat <;> simp only [hk, if_true, if_false] <;> rfl
  case clr d => rfl
  case mov d p => rfl
  case ldl d j => by_cases hj : s.cfg.k ≤ j.toNat <;> simp only [hj, if_true, if_false] <;> rfl
  case pow2 d e => exact map_setX_awaiting rest s d _
  case pow2n d m =>
    cases limbCount s with
    | error e => rfl
    | ok n => exact map_setX_awaiting rest s d _
  case div d a b => exact map_setX_awaiting rest s d _
  case mul d a b => exact map_setX_awaiting rest s d _
  case sub d a b => exact map_setX_awaiting rest s d _
  case limb p j => rfl
  case decomp p => cases limbCount s <;> rfl
  case barrett d p =>
    by_cases hd : 5 < d.val <;> simp only [hd, if_true, if_false]
    · rfl
    · cases limbCount s with
      | error e => rfl
      | ok n =>
        show (barrettConstants n (s.x p)).map _ = ((barrettConstants n (s.x p)).map _).map _
        cases barrettConstants n (s.x p) <;> rfl

theorem windowWrite_awaiting (rest : List Arrival) (s : State) (r : WindowReg) (d : Word) :
    (s.awaiting rest).windowWrite r d = (s.windowWrite r d).awaiting rest := by
  cases r <;> try rfl
  case ctrl => cases h1 : d[1] <;> cases h2 : d[2] <;> simp [State.windowWrite, State.ctrlWrite, h1, h2] <;> rfl
  case cmd => by_cases h : s.busy = false ∧ s.err = 0 <;> simp only [State.windowWrite, State.cmdWrite, h] <;> rfl
  case din => cases h : s.busy <;> simp only [State.windowWrite, State.dinWrite, h] <;> rfl

/-- The arrivals behind the one taken wait as they are: a step reads nothing of them. -/
theorem arrive_awaiting {a : Arrival} {s t : State} (rest : List Arrival) (h : arrive a s = .next t) :
    arrive a (s.awaiting rest) = .next (t.awaiting rest) := by
  cases a with
  | engineTurn =>
    rcases engineTurn_cases h with ⟨hi, e⟩ | ⟨hr, hb, e⟩
    · cases e
      rcases hi with hi | hi <;> simp [arrive, engineTurn, hi]
    · have e' : arrive .engineTurn (s.awaiting rest) = completeCommand (s.awaiting rest) := by
        simp [arrive, engineTurn, hr, hb]
      rw [e']
      rcases completeCommand_cases e.symm with ⟨i, hd, he⟩ | ⟨c, hd, he⟩
      · simpa [completeCommand, hd] using exec_awaiting rest he.symm
      · cases he; simp [completeCommand, hd, State.raise, State.complete]
  | rst level =>
    cases h
    rcases State.rstLevel_cases s level with ⟨h1, e⟩ | ⟨h1, h2, e⟩ | ⟨h1, h2, e⟩ <;>
      simp [arrive, State.rstLevel, *]
  | read addr bits =>
    cases hr : s.rst with
    | true => simp only [arrive, hr, if_true] at h ⊢; cases h; rfl
    | false =>
      simp only [arrive, hr] at h ⊢
      rcases hostRead_cases h with ⟨_, e⟩ | ⟨off, ho, ⟨hp, e⟩ | ⟨hp, e⟩⟩
      · cases e
      · cases e
        show hostRead addr bits (s.awaiting rest) = _
        simp only [hostRead, ho, hp, if_true]
        rcases State.readRegister_cases s (windowReg s.cfg off) with ⟨hb, hu, e⟩ | ⟨hb, e⟩
        · rw [e]; simp [State.readRegister, hb, hu]
        · rw [e]; rcases hb with hb | hb <;> simp [State.readRegister, hb] <;> rfl
      · cases e
        show hostRead addr bits (s.awaiting rest) = _
        simp only [hostRead, ho, hp]; rfl
  | write addr bits d =>
    cases hr : s.rst with
    | true => simp only [arrive, hr, if_true] at h ⊢; cases h; rfl
    | false =>
      simp only [arrive, hr] at h ⊢
      rcases hostWrite_cases h with ⟨_, e⟩ | ⟨off, ho, ⟨hp, e⟩ | ⟨hp, e⟩⟩
      · cases e
      · cases e
        show hostWrite addr bits d (s.awaiting rest) = _
        simp only [hostWrite, ho, hp, if_true, State.writeRegister, windowWrite_awaiting]
      · cases e
        show hostWrite addr bits d (s.awaiting rest) = _
        simp only [hostWrite, ho, hp]; rfl

/-- An arrival put first is the one that the step takes. -/
theorem step_arrival_first (s : State) (a : Arrival) : step { s with arrivals := a :: s.arrivals } = arrive a s := rfl

theorem State.takeThen_next {s t : State} {a : Arrival} (k : State → HostRun) (h : arrive a s = .next t) :
    s.takeThen a k = .next (k t) := by
  rw [State.takeThen, step_arrival_first, h]

theorem State.takeThen_cases {s : State} {a : Arrival} {k : State → HostRun} {r : HostRun}
    (h : s.takeThen a k = .next r) : ∃ t, arrive a s = .next t ∧ r = k t := by
  rw [State.takeThen, step_arrival_first] at h
  cases e : arrive a s with
  | next t => rw [e] at h; exact ⟨t, rfl, (Host.Outcome.next.inj h).symm⟩
  | fault f => rw [e] at h; cases h
  | refused f => rw [e] at h; cases h

/-! ### Moves -/

/-- All a move can do: something else reaches the block, the host's program is over, or the host's next access is
performed. -/
theorem HostRun.move_cases {r r' : HostRun} {m : Move} (h : r.move m = .next r') :
    (∃ a t, m = .other a ∧ arrive a r.block = .next t ∧ r' = { r with block := t }) ∨
      (m = .host ∧ r.todo = [] ∧ r' = r) ∨
      ∃ a rest t, m = .host ∧ r.todo = a :: rest ∧ arrive (a.access r.block.cfg) r.block = .next t ∧
        r' = r.after a rest t := by
  cases m with
  | other a =>
    obtain ⟨t, ht, rfl⟩ := State.takeThen_cases h
    exact .inl ⟨a, t, rfl, ht, rfl⟩
  | host =>
    cases ht : r.todo with
    | nil => exact .inr (.inl ⟨rfl, rfl, by simpa [HostRun.move, ht] using h.symm⟩)
    | cons a rest =>
      simp only [HostRun.move, ht] at h
      obtain ⟨t, hs, rfl⟩ := State.takeThen_cases h
      exact .inr (.inr ⟨a, rest, t, rfl, rfl, hs, rfl⟩)

@[simp] theorem HostRun.after_block (r : HostRun) (a : HostAction) (rest : List HostAction) (t : State) :
    (r.after a rest t).block = t := by
  cases a <;> rfl

@[simp] theorem HostRun.moves_nil (r : HostRun) : r.moves [] = .next r := rfl

theorem HostRun.moves_cons {r r' : HostRun} {m : Move} (ms : List Move) (h : r.move m = .next r') :
    r.moves (m :: ms) = r'.moves ms := by
  rw [HostRun.moves, h]

/-- The moves after the first, where the list answers a next state. -/
theorem HostRun.moves_cons_cases {r u : HostRun} {m : Move} {ms : List Move} (h : r.moves (m :: ms) = .next u) :
    ∃ r', r.move m = .next r' ∧ r'.moves ms = .next u := by
  rw [HostRun.moves] at h
  cases e : r.move m with
  | next r' => rw [e] at h; exact ⟨r', rfl, h⟩
  | fault f => rw [e] at h; cases h
  | refused f => rw [e] at h; cases h

/-- A host's moves are a run of the machine over the arrivals they put before the block. -/
theorem HostRun.moves_isRun {ms : List Move} {r u : HostRun} (h : r.moves ms = .next u) :
    ∃ as : List Arrival,
      Host.Core.run core as.length { r.block with arrivals := as ++ r.block.arrivals } = .next u.block := by
  induction ms generalizing r with
  | nil => exact ⟨[], by rw [HostRun.moves_nil] at h; cases h; rfl⟩
  | cons m ms ih =>
    obtain ⟨r', hm, h⟩ := HostRun.moves_cons_cases h
    obtain ⟨as, e⟩ := ih h
    have moved : (∃ a, arrive a r.block = .next r'.block) ∨ r' = r := by
      rcases HostRun.move_cases hm with ⟨a, t, _, ht, rfl⟩ | ⟨_, _, rfl⟩ | ⟨a, rest, t, _, _, ht, rfl⟩
      · exact .inl ⟨a, ht⟩
      · exact .inr rfl
      · exact .inl ⟨_, by rw [HostRun.after_block]; exact ht⟩
    rcases moved with ⟨a, ha⟩ | he
    · have later (rest : List Arrival) : step (r.block.awaiting (a :: rest)) = .next (r'.block.awaiting rest) := by
        have := arrive_awaiting rest ha
        rwa [show step (r.block.awaiting (a :: rest)) = arrive a (r.block.awaiting rest) from rfl]
      have hl : r'.block.arrivals = r.block.arrivals := by
        have h := arrive_awaiting r.block.arrivals ha
        rw [show r.block.awaiting r.block.arrivals = r.block from rfl, ha] at h
        exact (congrArg State.arrivals (Host.Outcome.next.inj h) :)
      refine ⟨a :: as, ?_⟩
      rw [List.length_cons, List.cons_append, run_succ_of_next (later _), ← hl]
      exact e
    · exact ⟨as, he ▸ e⟩

end Sys2Proof.Machine
end

