-- ==== Sys2Proof/Laws/PerInstr.lean ====
section
/-! SUPPORT. Statements made once per command (LAWS.json): the encoder puts the command's opcode in bits 31:24 and no
operand reaches them (spec R71, R80). -/

namespace Sys2Proof.Laws.EncodesOpcode

open Sys2Proof

/-- The opcode field of the encoded command is the command's opcode, whatever its operands. -/
def Statement (i : Instr) : Prop := opField (encode i) = i.opcode

/-- The opcode field of a word made of an opcode and operand bits below bit 24. -/
theorem opField_of_low {op : BitVec 8} {w : CmdWord} (h : ∀ k < 8, w.getLsbD (24 + k) = false) :
    opField (placed 8 op 24 ||| w) = op := by
  apply BitVec.eq_of_getLsbD_eq
  intro k hk
  rw [opField, placed, BitVec.getLsbD_extractLsb', BitVec.getLsbD_or, h k hk, BitVec.getLsbD_shiftLeft]
  simp [hk, show 24 + k < 32 by omega, show k < 32 by omega]

/-- An immediate stays below bit 24. -/
theorem placed_imm_low (v : BitVec 16) (k : Nat) : (placed 16 v 0).getLsbD (24 + k) = false := by
  have h : v.getLsbD (24 + k) = false := BitVec.getLsbD_of_ge _ _ (by omega)
  simp [placed, h]

/-- A register number placed at bit 20 or below stays below bit 24. -/
theorem placedReg_low (r : XIdx) {p : Nat} (hp : p ≤ 20) (k : Nat) : (placedReg r p).getLsbD (24 + k) = false := by
  have h : (BitVec.ofFin (w := 3) r).getLsbD (24 + k - p) = false := BitVec.getLsbD_of_ge _ _ (by omega)
  simp [placedReg, placed, h]

theorem nop : Statement .nop := by unfold Statement; decide

theorem setn (imm : BitVec 16) : Statement (.setn imm) :=
  opField_of_low fun k _ => by
    simp [Instr.operandBits, placed_imm_low]

theorem clr (rd : XIdx) : Statement (.clr rd) :=
  opField_of_low fun k _ => by
    simp [Instr.operandBits, placedReg_low]

theorem mov (rd : XIdx) (rs1 : XIdx) : Statement (.mov rd rs1) :=
  opField_of_low fun k _ => by
    simp [Instr.operandBits, placedReg_low]

theorem ldl (rd : XIdx) (imm : BitVec 16) : Statement (.ldl rd imm) :=
  opField_of_low fun k _ => by
    simp [Instr.operandBits, placed_imm_low, placedReg_low]

theorem pow2 (rd : XIdx) (imm : BitVec 16) : Statement (.pow2 rd imm) :=
  opField_of_low fun k _ => by
    simp [Instr.operandBits, placed_imm_low, placedReg_low]

theorem pow2n (rd : XIdx) (imm : BitVec 16) : Statement (.pow2n rd imm) :=
  opField_of_low fun k _ => by
    simp [Instr.operandBits, placed_imm_low, placedReg_low]

theorem div (rd : XIdx) (rs1 : XIdx) (rs2 : XIdx) : Statement (.div rd rs1 rs2) :=
  opField_of_low fun k _ => by
    simp [Instr.operandBits, placedReg_low]

theorem mul (rd : XIdx) (rs1 : XIdx) (rs2 : XIdx) : Statement (.mul rd rs1 rs2) :=
  opField_of_low fun k _ => by
    simp [Instr.operandBits, placedReg_low]

theorem sub (rd : XIdx) (rs1 : XIdx) (rs2 : XIdx) : Statement (.sub rd rs1 rs2) :=
  opField_of_low fun k _ => by
    simp [Instr.operandBits, placedReg_low]

theorem limb (rs1 : XIdx) (imm : BitVec 16) : Statement (.limb rs1 imm) :=
  opField_of_low fun k _ => by
    simp [Instr.operandBits, placed_imm_low, placedReg_low]

theorem decomp (rs1 : XIdx) : Statement (.decomp rs1) :=
  opField_of_low fun k _ => by
    simp [Instr.operandBits, placedReg_low]

theorem barrett (rd : XIdx) (rs1 : XIdx) : Statement (.barrett rd rs1) :=
  opField_of_low fun k _ => by
    simp [Instr.operandBits, placedReg_low]

end Sys2Proof.Laws.EncodesOpcode
end

