-- ==== Sys2Proof/Tests/Slice0.lean ====
section
/-! SUPPORT. The model's own tests: expected results from spec/95 (vectors and programs), spec/30 R78 to R80 and the
rules cited; and for each statement with hypotheses a concrete state and operands that meet them all. -/

set_option maxRecDepth 8000

namespace Sys2Proof.Tests

open Sys2Proof Sys2Proof.Machine

/-! ### Helpers -/

/-- The reset state (`LMAX = 4`, base 0) with a limb count and a register file. -/
def regs (n : BitVec 16) (xs : XRegs) : State := { State.reset with n := n, xs := xs }

/-- The command `c` latched, its complete step next. -/
def latched (s : State) (c : CmdWord) : State := s.withCommand c

/-- The state with these arrivals. -/
def meets (s : State) (as : List Arrival) : State := { s with arrivals := as }

/-- A field of the next state, none where there is no next state. -/
def fieldAfter {α : Type} (o : Host.Outcome State Fault Refusal) (f : State → α) : Option α :=
  match o with
  | .next t => some (f t)
  | .fault _ => none
  | .refused _ => none

/-- A field of the state after `k` steps. -/
def fieldAfterRun {α : Type} (k : Nat) (s : State) (f : State → α) : Option α := fieldAfter (Host.Core.run core k s) f

/-! ### Well-formedness -/

/-- The one ill-formed kind of term: BARRETT with `RD > 5` (spec R75, R130). -/
theorem test_wellFormed_refuses_barrett_6 : (Instr.barrett 6 0).wellFormed = false := by decide

theorem test_wellFormed_refuses_barrett_7 : (Instr.barrett 7 7).wellFormed = false := by decide

theorem test_wellFormed_barrett_5 : (Instr.barrett 5 0).wellFormed = true := by decide

/-! ### Decoding: words written out from the encodings of spec R71, R73, R75 -/

/-- Of each word: eight bits of opcode, then `0 ddd 0 sss 0 ttt` and twelve zeros, or an immediate in the low sixteen. -/
theorem test_decode_nop : decode 0b00000000_00000000_00000000_00000000#32 = .ok .nop := by decide

theorem test_decode_setn : decode 0b00000001_00000000_00000000_00000010#32 = .ok (.setn 2) := by decide

theorem test_decode_clr : decode 0b00000010_01000000_00000000_00000000#32 = .ok (.clr 4) := by decide

theorem test_decode_mov : decode 0b00000011_01100001_00000000_00000000#32 = .ok (.mov 6 1) := by decide

theorem test_decode_ldl : decode 0b00000100_01110000_10000000_00000001#32 = .ok (.ldl 7 0x8001) := by decide

theorem test_decode_pow2 : decode 0b00001000_00010000_00000010_00111111#32 = .ok (.pow2 1 575) := by decide

theorem test_decode_pow2n : decode 0b00001001_00100000_00000000_00000010#32 = .ok (.pow2n 2 2) := by decide

theorem test_decode_div : decode 0b00001010_00110001_00000000_00000000#32 = .ok (.div 3 1 0) := by decide

theorem test_decode_mul : decode 0b00001011_01100100_00010000_00000000#32 = .ok (.mul 6 4 1) := by decide

theorem test_decode_sub : decode 0b00001100_00100100_01010000_00000000#32 = .ok (.sub 2 4 5) := by decide

theorem test_decode_limb : decode 0b00010000_00000011_11111111_11111110#32 = .ok (.limb 3 0xFFFE) := by decide

theorem test_decode_decomp : decode 0b00010001_00000001_00000000_00000000#32 = .ok (.decomp 1) := by decide

theorem test_decode_barrett : decode 0b00011000_01010110_00000000_00000000#32 = .ok (.barrett 5 6) := by decide

/-- The illegal words of spec/95 section 2.10, C-2 and C-8. -/
theorem test_decode_illegal :
    decode 0x05000000 = .error .reservedOpcode ∧ decode 0xFF000000 = .error .reservedOpcode ∧
      decode 0x0A800000 = .error .fixedZeroBit ∧ decode 0x0A000001 = .error .fixedZeroBit ∧
      decode 0x10100000 = .error .fixedZeroBit ∧ decode 0x00000001 = .error .fixedZeroBit ∧
      decode 0x02000001 = .error .fixedZeroBit ∧ decode 0x18600000 = .error .barrettDestination := by decide

/-- The encodings of spec/95 program P2. -/
theorem test_encode_program :
    encode (.div 5 5 0) = 0x0A550000 ∧ encode (.mul 6 4 1) = 0x0B641000 ∧ encode (.sub 3 4 6) = 0x0C346000 ∧
      encode (.pow2n 5 2) = 0x09500002 := by decide

theorem test_decodeTableWord : decodeTableWord 32 0x11010000 = some (.decomp 1) := by decide

theorem test_decodeTableWord_illegal : decodeTableWord 32 0x18600000 = none := by decide

/-! ### Assembly (spec R78) -/

theorem test_assemble_case : assembleWord "barrett x1, X0".toList = .ok 0x18100000 := by decide

theorem test_assemble_hex : assembleWord "LIMB X1, 0xFFFF".toList = .ok 0x1001FFFF := by decide

theorem test_assemble_range : assembleWord "POW2 X1, 65536".toList = .error .immediateRange := by decide

theorem test_assemble_wrong_operands : assembleWord "DIV X1, X0".toList = .error .wrongOperands := by decide

theorem test_assemble_no_register : assembleWord "CLR X8".toList = .error .wrongOperands := by decide

/-! ### One command each (spec/95 sections 2.1 to 2.9, by vector) -/

/-- C-1. -/
theorem test_nop : fieldAfter (step (latched State.reset 0x00000000)) (fun t => (t.busy, t.done, t.err)) =
    some (false, true, 0) := by decide

/-- C-4. -/
theorem test_setn : fieldAfter (exec (.setn 4) (regs 1 ⟨0, 0, 0, 0, 0, 0, 0, 0⟩)) State.n = some 4 := by decide

/-- C-5, C-6. -/
theorem test_setn_refuses :
    (fieldAfter (exec (.setn 5) (regs 4 ⟨0, 0, 0, 0, 0, 0, 0, 0⟩)) (fun t => (t.n, t.err)) = some (4, 0x02)) ∧
      fieldAfter (exec (.setn 0) (regs 4 ⟨0, 0, 0, 0, 0, 0, 0, 0⟩)) (fun t => (t.n, t.err)) = some (4, 0x02) := by
  decide

/-- C-7. -/
theorem test_clr :
    fieldAfter (exec (.clr 4) (regs 0 ⟨1, 2, 3, 4, 5, 6, 7, 8⟩)) State.xs = some ⟨1, 2, 3, 4, 0, 6, 7, 8⟩ := by decide

/-- C-9. -/
theorem test_mov :
    fieldAfter (exec (.mov 6 1) (regs 0 ⟨0, 5, 0, 0, 0, 0, 9, 0⟩)) State.xs = some ⟨0, 5, 0, 0, 0, 0, 5, 0⟩ := by
  decide

/-- C-11. -/
theorem test_ldl :
    fieldAfter (exec (.ldl 0 0) (regs 0 ⟨2 ^ 128 - 1, 0, 0, 0, 0, 0, 0, 0⟩)) (fun t => t.x 0) =
      some 0xFFFFFFFFFFFFFFFF0000000000000000 := by decide

/-- C-12, C-13. -/
theorem test_ldl_limit :
    (fieldAfter (exec (.ldl 0 8) State.reset) (fun t => (t.x 0, t.err)) = some (0, 0)) ∧
      fieldAfter (exec (.ldl 0 9) State.reset) (fun t => (t.x 0, t.err)) = some (0, 0x05) := by decide

/-- PW-3. -/
theorem test_pow2 : fieldAfter (exec (.pow2 1 64) State.reset) (fun t => t.x 1) = some (2 ^ 64) := by decide

/-- PW-5. -/
theorem test_pow2_capacity :
    fieldAfter (exec (.pow2 1 576) (regs 0 ⟨0, 5, 0, 0, 0, 0, 0, 0⟩)) (fun t => (t.x 1, t.err)) = some (5, 0x05) := by
  decide

/-- PN-2. -/
theorem test_pow2n :
    fieldAfter (exec (.pow2n 2 1) (regs 1 ⟨0, 0, 0, 0, 0, 0, 0, 0⟩)) (fun t => t.x 2) = some (2 ^ 64) := by decide

/-- PN-5, PN-7. -/
theorem test_pow2n_errors :
    (fieldAfter (exec (.pow2n 2 3) (regs 4 ⟨0, 0, 0, 0, 0, 0, 0, 0⟩)) State.err = some 0x05) ∧
      fieldAfter (exec (.pow2n 2 0) State.reset) State.err = some 0x02 := by decide +kernel

/-- D-6. -/
theorem test_div :
    fieldAfter (exec (.div 2 1 0) (regs 0 ⟨2 ^ 64 - 1, 2 ^ 128 - 1, 0, 0, 0, 0, 0, 0⟩)) (fun t => t.x 2) =
      some (2 ^ 64 + 1) := by decide

/-- D-8, through the step. -/
theorem test_div_by_zero :
    fieldAfter (step (latched (regs 0 ⟨0, 2 ^ 64, 9, 0, 0, 0, 0, 0⟩) 0x0A210000)) (fun t => (t.x 2, t.err, t.errcmd)) =
      some (9, 0x03, 0x0A210000) := by decide

/-- M-2. -/
theorem test_mul :
    fieldAfter (exec (.mul 2 1 1) (regs 0 ⟨0, 2 ^ 64 - 1, 0, 0, 0, 0, 0, 0⟩)) (fun t => t.x 2) =
      some 0xFFFFFFFFFFFFFFFE0000000000000001 := by decide +kernel

/-- M-6. -/
theorem test_mul_capacity :
    fieldAfter (exec (.mul 2 1 1) (regs 0 ⟨0, 2 ^ 288, 9, 0, 0, 0, 0, 0⟩)) (fun t => (t.x 2, t.err)) =
      some (9, 0x05) := by decide +kernel

/-- S-3. -/
theorem test_sub :
    fieldAfter (exec (.sub 2 1 0) (regs 0 ⟨1, 2 ^ 128, 0, 0, 0, 0, 0, 0⟩)) (fun t => t.x 2) = some (2 ^ 128 - 1) := by
  decide

/-- S-2. -/
theorem test_sub_underflow :
    fieldAfter (exec (.sub 5 4 1) (regs 0 ⟨0, 2 ^ 64, 0, 0, 2 ^ 64 - 3, 7, 0, 0⟩)) (fun t => (t.x 5, t.err)) =
      some (7, 0x04) := by decide

/-- L-4. -/
theorem test_limb :
    fieldAfter (exec (.limb 1 8) (regs 0 ⟨0, 2 ^ 575, 0, 0, 0, 0, 0, 0⟩)) State.dout = some 0x8000000000000000 := by
  decide +kernel

/-- L-5. -/
theorem test_limb_beyond :
    fieldAfter (exec (.limb 1 9) (regs 0 ⟨0, 2 ^ 575, 0, 0, 0, 0, 0, 0⟩)) (fun t => (t.dout, t.err)) = some (0, 0) := by
  decide +kernel

/-- DC-4. -/
theorem test_decomp :
    fieldAfter (exec (.decomp 1) { regs 1 ⟨0, 2 ^ 64 + 5, 0, 0, 0, 0, 0, 0⟩ with obuf := [9, 9, 9, 9] })
      (fun t => (t.obuf, t.ocnt, t.trunc)) = some ([5, 0, 0, 0], 1, true) := by decide

/-- DC-5. -/
theorem test_decomp_unset :
    fieldAfter (exec (.decomp 1) { State.reset with obuf := [9, 9, 9, 9], ocnt := 4 })
      (fun t => (t.obuf, t.ocnt, t.err)) = some ([9, 9, 9, 9], 4, 0x02) := by decide

/-- The vector `n = 2`, `p = 2^89 - 1` of section 2.7. -/
theorem test_barrett :
    fieldAfter (exec (.barrett 1 0) (regs 2 ⟨2 ^ 89 - 1, 0, 0, 0, 0, 0, 0, 0⟩)) State.xs =
      some ⟨2 ^ 89 - 1, 0x8000000000, 0x40000000000000000000, 0x8000000000, 0, 0, 0, 0⟩ := by decide +kernel

/-- B-A1: the source register is the third destination. -/
theorem test_barrett_alias :
    fieldAfter (exec (.barrett 1 3) (regs 1 ⟨0, 0, 0, 13, 0, 0, 0, 0⟩)) State.xs =
      some ⟨0, 0x13b13b13b13b13b1, 0x3b13b13b13b13b13, 3, 0, 0, 0, 0⟩ := by decide +kernel

/-! ### The host window (spec/95 section 2.11, by vector) -/

/-- H-1. -/
theorem test_host_id :
    fieldAfter (step (meets State.reset [hostR Config.standard 0x000])) State.resp =
      some (some (.readData 0x534D444300010004)) := by decide

/-- H-3, H-5. -/
theorem test_host_dropped :
    (fieldAfter (step { State.reset with busy := true, cur := 7, arrivals := [hostW Config.standard 0x020 9] })
        (fun t => (t.ovr, t.busy, t.cur)) = some (true, true, 7)) ∧
      fieldAfter (step { State.reset with busy := true, arrivals := [hostW Config.standard 0x028 5] })
        (fun t => (t.ovr, t.din)) = some (true, 0) := by decide

/-- H-4. -/
theorem test_host_lockout :
    fieldAfterRun 2 { State.reset with
        err := 3, done := true, arrivals := [hostW Config.standard 0x020 9, hostR Config.standard 0x010] } State.resp =
      some (some (.readData 0x30A)) := by decide

/-- H-6. -/
theorem test_host_errclr :
    fieldAfter (step { State.reset with err := 3, errcmd := 77, arrivals := [hostW Config.standard 0x008 4] })
      (fun t => (t.err, t.ie, t.errcmd)) = some (0, false, 77) := by decide

/-- H-7. -/
theorem test_host_status_clear :
    fieldAfter (step { State.reset with
        done := true, trunc := true, ovr := true, arrivals := [hostW Config.standard 0x010 4] })
      (fun t => (t.done, t.trunc, t.ovr)) = some (true, false, true) := by decide

/-- H-8, H-9. -/
theorem test_host_refused :
    (fieldAfter (step (meets State.reset [.read 0x010 32])) State.resp = some (some (.busError 0))) ∧
      fieldAfter (step (meets State.reset [.read 0x00C 64])) State.resp = some (some (.busError 0)) := by decide

/-- H-10. -/
theorem test_host_irq :
    State.irq { State.reset with ie := true, done := true } = true ∧
      fieldAfter (step { State.reset with ie := true, done := true, arrivals := [hostW Config.standard 0x010 2] })
        State.irq = some false := by decide

/-- H-11. -/
theorem test_host_soft_reset :
    fieldAfterRun 2 { State.reset with
        busy := true, cur := 0x01000001, n := 3, arrivals := [hostW Config.standard 0x008 2, .engineTurn] }
      (fun t => (t.busy, t.done, t.n, t.cur)) = some (false, false, 0, 0) := by decide

/-- RST asserted, an access lost, RST released (spec R200). -/
theorem test_hard_reset :
    fieldAfterRun 3 { State.reset with
        n := 3, busy := true, arrivals := [.rst true, hostW Config.standard 0x020 9, .rst false] }
      (fun t => (t.n, t.busy, t.rst)) = some (0, false, false) := by decide

/-- A platform address past the window is no address of the block (spec R50). -/
theorem test_outside_window :
    fieldAfter (step (meets State.reset [.read 4096 64])) State.resp = none := by decide

/-- Byte lane 0 is bits 7:0 (spec R54). -/
theorem test_byte_lane : byteLane 0x1122334455667788 0 = 0x88 ∧ byteLane 0x1122334455667788 7 = 0x11 := by decide

/-- A field of a host under way after some moves, none where there is no next state. -/
def fieldAfterMoves {α : Type} (s : State) (program : List HostAction) (ms : List Move) (f : HostRun → α) : Option α :=
  match (s.hostAt program).moves ms with
  | .next r => some (f r)
  | .fault _ => none
  | .refused _ => none

/-- `LOADV X0, 2^64` with two limbs (spec R79): CLR, then DIN and LDL for limb 1 alone. -/
theorem test_loadv :
    loadv 0 (2 ^ 64) 2 =
      .ok [.write 0x020 0x02000000, .wait, .write 0x028 1, .write 0x020 0x04000001, .wait] := by decide

/-- Two busy polls in the first WAIT and none in the second. -/
theorem test_loadv_waits :
    fieldAfterMoves State.reset [.write 0x020 0x02000000, .wait, .write 0x028 1, .write 0x020 0x04000001, .wait]
        [.host, .host, .host, .other .engineTurn, .host, .host, .host, .other .engineTurn, .host]
        (fun r => (r.todo, r.block.x 0, r.block.ovr)) = some ([], 2 ^ 64, false) := by decide

/-- R79: an ISSUE whose CMD write is dropped (ERR nonzero) waits no longer than its first poll, and CHECK shows it. -/
theorem test_issue_dropped :
    fieldAfterMoves { State.reset with err := 3 } (issue 0x02000000 ++ check) [.host, .host, .host]
        (fun r => (r.todo, r.kept.map fun o => o.map checkSucceeded)) = some ([], [some false]) := by decide

/-- R78: an LDL index above 65535 is an assembly error, one of 65535 is not. -/
theorem test_loadLimbs_range :
    loadLimbs 0 1 [65536] = .error .immediateRange ∧
      loadLimbs 0 0 [65535] = .ok [.write 0x028 0, .write 0x020 0x0400FFFF, .wait] := by decide +kernel

/-- `READV X1 -> L[0..1]` of `2^64 + 5` with `N = 2` (spec R79, R137). -/
theorem test_readv :
    fieldAfterMoves (regs 2 ⟨0, 2 ^ 64 + 5, 0, 0, 0, 0, 0, 0⟩) (readv 1 2)
        [.host, .other .engineTurn, .host, .host, .host] (fun r => (r.todo, r.kept)) =
      some ([], [some 5, some 1]) := by decide

/-! ### Witnesses: a state and operands that meet the hypotheses of each statement, clause by clause -/

/-- A register file with `X0 = 13` and `X1 = 2^64`. -/
def sample : XRegs := ⟨13, 2 ^ 64, 0, 7, 0, 0, 0, 5⟩

/-- An idle state with `N = 1` and the sample registers. -/
def idle : State := regs 1 sample

/-- A state in the error state with every flag and IE set. -/
def inError : State := { idle with err := 3, errcmd := 0x0A210000, done := true, trunc := true, ovr := true, ie := true }

theorem witness_DecodeOfEncode : (Instr.barrett 5 7).wellFormed = true ∧ (Instr.ldl 7 0xFFFF).wellFormed = true := by
  decide

theorem witness_EncodeOfDecode : decode 0x18570000 = .ok (.barrett 5 7) := by decide

theorem witness_LegalWordsDecode :
    LegalWord 0x18570000 ∧ ¬LegalWord 0x18600000 ∧ ¬LegalWord 0x05000000 := by
  unfold LegalWord opcodeMap; decide

theorem witness_StepRunsDecodedCommand :
    ((latched idle 0x0A210000).Completing ∧ decode (latched idle 0x0A210000).cur = .ok (.div 2 1 0)) ∧
      idle.nextUp = .engineTurn ∧ idle.busy = false := by decide

theorem witness_IllegalWordsRaise_reserved :
    (∀ row ∈ opcodeMap, row.1.toNat ≠ (0x19000000 : CmdWord).toNat / 2 ^ 24) ∧
      (latched idle 0x19000000).Completing ∧ (latched idle 0x19000000).cur = 0x19000000 :=
  ⟨by simp [opcodeMap], by decide, by decide⟩

theorem witness_IllegalWordsRaise_fixedZero :
    (∃ row ∈ opcodeMap, row.1.toNat = (0x0A800000 : CmdWord).toNat / 2 ^ 24 ∧
        (0x0A800000 : CmdWord) &&& row.2.2 ≠ row.2.1) ∧
      (latched idle 0x0A800000).Completing ∧ (latched idle 0x0A800000).cur = 0x0A800000 :=
  ⟨by simp [opcodeMap], by decide, by decide⟩

theorem witness_IllegalWordsRaise_barrett :
    ((0x18600000 : CmdWord).toNat / 2 ^ 24 = 0x18 ∧ 5 < (0x18600000 : CmdWord).toNat / 2 ^ 20 % 8) ∧
      (latched idle 0x18600000).Completing ∧ (latched idle 0x18600000).cur = 0x18600000 :=
  ⟨by decide, by decide, by decide⟩

theorem witness_EveryCompleteStepEnds : (latched idle 0x0A210000).Completing ∧ (latched idle 0x19000000).Completing := by
  decide

theorem witness_NopCommand :
    (0x00000000 : CmdWord) &&& 0xFFFFFFFF = 0x00000000 ∧
      ((0x00000001 : CmdWord).toNat / 2 ^ 24 = 0 ∧ (0x00000001 : CmdWord).toNat % 2 ^ 24 ≠ 0) ∧
      (latched idle 0x00000001).Completing ∧ (latched idle 0x00000001).cur = 0x00000001 := by decide

/-- `k` at both ends of `1..LMAX`, and on either side of it. -/
theorem witness_SetnCommand :
    (0x0100FFFF : CmdWord) &&& 0xFFFF0000 = 0x01000000 ∧
      (1 ≤ (1 : BitVec 16).toNat ∧ (1 : BitVec 16).toNat ≤ idle.cfg.lmax) ∧
      (1 ≤ (4 : BitVec 16).toNat ∧ (4 : BitVec 16).toNat ≤ idle.cfg.lmax) ∧
      (0 : BitVec 16).toNat = 0 ∧ idle.cfg.lmax < (5 : BitVec 16).toNat := by decide

theorem witness_ClrCommand : (0x02700000 : CmdWord) &&& 0xFF8FFFFF = 0x02000000 := by decide

theorem witness_MovCommand : (0x03770000 : CmdWord) &&& 0xFF88FFFF = 0x03000000 := by decide

theorem witness_LdlCommand :
    (0x0470FFFF : CmdWord) &&& 0xFF8F0000 = 0x04000000 ∧ (8 : BitVec 16).toNat < 2 * idle.cfg.lmax + 1 ∧
      2 * idle.cfg.lmax + 1 ≤ (9 : BitVec 16).toNat := by decide

theorem witness_Pow2Command :
    (0x0870FFFF : CmdWord) &&& 0xFF8F0000 = 0x08000000 ∧ (575 : BitVec 16).toNat < 64 * (2 * idle.cfg.lmax + 1) ∧
      64 * (2 * idle.cfg.lmax + 1) ≤ (576 : BitVec 16).toNat := by decide

/-- The exponent 512 = 64*1*8 is the last below `CAP = 576`, 576 = 64*1*9 the first beyond. -/
theorem witness_Pow2nCommand :
    (0x0970FFFF : CmdWord) &&& 0xFF8F0000 = 0x09000000 ∧
      (idle.n.toNat ≠ 0 ∧ 64 * idle.n.toNat * (8 : BitVec 16).toNat < 64 * (2 * idle.cfg.lmax + 1)) ∧
      (idle.n.toNat ≤ idle.cfg.lmax ∧ (2 : BitVec 16).toNat ≤ 2) ∧ State.reset.n.toNat = 0 ∧
      64 * (2 * idle.cfg.lmax + 1) ≤ 64 * idle.n.toNat * (9 : BitVec 16).toNat := by decide

theorem witness_DivCommand :
    (0x0A777000 : CmdWord) &&& 0xFF888FFF = 0x0A000000 ∧ idle.x 0 ≠ 0 ∧ idle.x 2 = 0 := by decide

/-- A product below `2^CAP`, and one that is `2^CAP` exactly. -/
theorem witness_MulCommand :
    (0x0B777000 : CmdWord) &&& 0xFF888FFF = 0x0B000000 ∧ idle.x 0 * idle.x 1 < 2 ^ (64 * (2 * idle.cfg.lmax + 1)) ∧
      2 ^ (64 * (2 * idle.cfg.lmax + 1)) ≤
        (regs 1 ⟨2 ^ 288, 0, 0, 0, 0, 0, 0, 0⟩).x 0 * (regs 1 ⟨2 ^ 288, 0, 0, 0, 0, 0, 0, 0⟩).x 0 := by decide +kernel

theorem witness_SubCommand :
    (0x0C777000 : CmdWord) &&& 0xFF888FFF = 0x0C000000 ∧ idle.x 0 ≤ idle.x 0 ∧ idle.x 0 < idle.x 1 := by decide

theorem witness_LimbCommand :
    (0x1007FFFF : CmdWord) &&& 0xFFF80000 = 0x10000000 ∧ idle.XBounded ∧
      2 * idle.cfg.lmax + 1 ≤ (9 : BitVec 16).toNat := by decide +kernel

theorem witness_DecompCommand :
    (0x11070000 : CmdWord) &&& 0xFFF8FFFF = 0x11000000 ∧ idle.n.toNat ≠ 0 ∧ State.reset.n.toNat = 0 := by decide

theorem witness_BarrettCommand :
    ((0x18570000 : CmdWord) &&& 0xFF88FFFF = 0x18000000 ∧ (0x18570000 : CmdWord).toNat / 2 ^ 20 % 8 ≤ 5) ∧
      ((0x18670000 : CmdWord) &&& 0xFF88FFFF = 0x18000000 ∧ 5 < (0x18670000 : CmdWord).toNat / 2 ^ 20 % 8) ∧
      ((5 : XIdx).val ≤ 5 ∧ idle.n.toNat ≠ 0 ∧ idle.x 0 ≠ 0) ∧ 5 < (6 : XIdx).val ∧ State.reset.n.toNat = 0 ∧
      idle.x 2 = 0 := by decide

theorem witness_ErrorCauseIsTaken :
    ((latched idle 0x18600000).Completing ∧ decode (latched idle 0x18600000).cur = .error .barrettDestination) ∧
      errorCause (.div 3 1 2) idle ≠ 0 ∧ errorCause (.div 3 1 0) idle = 0 ∧ errorCause (.barrett 6 2) State.reset = 0x01 := by
  decide

theorem witness_LockoutWhileInError :
    inError.err ≠ 0 ∧ (meets inError [hostW inError.cfg 0x020 9]).WritesWindow 0x020 9 ∧ inError.BusyClean ∧
      inError.nextUp = .engineTurn := by decide

theorem witness_OnlyErrclrOrResetClearsError :
    ((meets inError [hostW inError.cfg 0x008 4]).WritesWindow 0x008 4 ∧ (4 : Word)[1] = false ∧ (4 : Word)[2] = true) ∧
      ∃ t, step (meets inError [hostW inError.cfg 0x008 4]) = .next t ∧ inError.err ≠ 0 ∧ t.err = 0 := by
  refine ⟨by decide, _, rfl, by decide⟩

theorem witness_PowerOfTwoLimbs : (575 : BitVec 16).toNat < idle.cfg.cap ∧ ∃ t, exec (.pow2 1 575) idle = .next t := by
  refine ⟨by decide, _, rfl⟩

theorem witness_Pow2nAgreesWithPow2 :
    1 ≤ idle.n.toNat ∧ (512 : BitVec 16).toNat = 64 * idle.n.toNat * (8 : BitVec 16).toNat := by decide

theorem witness_FloorDivisionLaw :
    (idle.x 0 ≠ 0 ∧ ∃ t, exec (.div 2 1 0) idle = .next t) ∧
      idle.XBounded ∧ idle.x 0 ≠ 0 ∧ (2 : XIdx) ≠ 1 ∧ (2 : XIdx) ≠ 0 ∧ (0 : XIdx) ≠ 1 := by
  refine ⟨⟨by decide, _, rfl⟩, by decide +kernel⟩

theorem witness_MultiplicationLaw :
    errorCause (.mul 2 1 0) idle = 0 ∧ ∃ t, exec (.mul 2 1 0) idle = .next t :=
  ⟨by decide +kernel, _, rfl⟩

theorem witness_LimbRoundTrip : 2 ≤ 65536 ∧ idle.x 1 < 2 ^ (64 * 2) := by decide

theorem witness_BarrettIntermediateBounds : (1 : Nat) ≤ 4 ∧ (1 : Nat) ≤ 1 ∧ 4 ≤ Config.standard.lmax := by decide

/-- For R132, R133 and R134: `p = 13`, and `p = 1` (the boundary of R132's last clause). -/
theorem witness_BarrettPostconditions :
    ((5 : XIdx).val ≤ 5 ∧ idle.n.toNat ≠ 0 ∧ idle.x 0 = 13 ∧ ∃ t, exec (.barrett 5 0) idle = .next t) ∧
      (regs 4 ⟨1, 0, 0, 0, 0, 0, 0, 0⟩).x 0 = 1 ∧
      ∃ t, exec (.barrett 0 0) (regs 4 ⟨1, 0, 0, 0, 0, 0, 0, 0⟩) = .next t := by
  refine ⟨⟨by decide, by decide, by decide, _, rfl⟩, by decide, _, rfl⟩

/-- The one state in which a BARRETT ends with `ERR = 4` held it before (no run reaches it with a command latched). -/
theorem witness_BarrettNeverUnderflows :
    ∃ t, exec (.barrett 1 0) { idle with err := 4 } = .next t ∧ t.err = 0x04 := by
  refine ⟨_, rfl, by decide +kernel⟩

theorem witness_BarrettBoundaryResults :
    (1 : Nat) ≤ 4 ∧ 2 ^ (64 * 4) < 2 ^ (64 * 4) + 1 ∧ 2 ^ (128 * 4) + 1 ≤ 2 ^ (128 * 4) + 1 := by decide +kernel

/-- `d = 1`, the source `X0`, the scratch registers `X4, X5, X6` of spec/95 program P2, and a zero source. -/
theorem witness_BarrettEqualsExpansion :
    (idle.Wf ∧ (1 : XIdx).val ≤ 5 ∧ idle.n.toNat ≠ 0) ∧
      ((4 : XIdx) ≠ 5 ∧ (4 : XIdx) ≠ 6 ∧ (5 : XIdx) ≠ 6 ∧ (4 : XIdx) ≠ 0 ∧ (5 : XIdx) ≠ 0 ∧ (6 : XIdx) ≠ 0) ∧
      ((4 : XIdx) ∉ [1, 1 + 1, 1 + 2] ∧ (5 : XIdx) ∉ [1, 1 + 1, 1 + 2] ∧ (6 : XIdx) ∉ [1, 1 + 1, 1 + 2]) ∧
      ((0 : XIdx) ≠ 1 ∧ (0 : XIdx) ≠ 1 + 1) ∧ idle.x 0 ≠ 0 ∧
      (regs 1 ⟨0, 0, 0, 0, 0, 0, 0, 0⟩).Wf ∧ (regs 1 ⟨0, 0, 0, 0, 0, 0, 0, 0⟩).x 0 = 0 := by
  refine ⟨⟨by decide +kernel, by decide⟩, by decide, by decide, by decide, by decide, by decide +kernel, by decide⟩

/-- TRUNC clear before and after; TRUNC set before. -/
theorem witness_DecompIsLimbSequence :
    (idle.NLegal ∧ idle.n.toNat ≠ 0 ∧ idle.trunc = false ∧ ∃ t, exec (.decomp 0) idle = .next t ∧ t.trunc = false) ∧
      ({ idle with trunc := true } : State).trunc = true ∧ ∃ t, exec (.decomp 0) { idle with trunc := true } = .next t := by
  refine ⟨⟨by decide, by decide, by decide, _, rfl, by decide⟩, by decide, _, rfl⟩

/-- `m = K = 9` limbs, limbs 1 to 8 left out; and a nonzero limb at the first index that no LDL can name. -/
theorem witness_LoadLaw :
    (idle.cfg.Valid ∧ idle.rst = false ∧ idle.busy = false ∧ idle.err = 0) ∧
      (9 ≤ idle.cfg.k ∧ 5 < 2 ^ (64 * 9) ∧ ∀ j < 9, decide (j = 0) = false → limb 5 j = 0) ∧
      (∀ a, Move.other a ∈ [Move.host, .host, .other .engineTurn, .host] → a = .engineTurn) ∧
      (65536 ≤ 65536 ∧ 65536 < 65537 ∧ limb (2 ^ (64 * 65536)) 65536 ≠ 0) := by
  refine ⟨by decide, by decide +kernel, by simp, by omega, by omega, ?_⟩
  rw [limb, Nat.div_self (Nat.pow_pos (by omega))]
  decide

theorem witness_CommandAcceptance :
    ((meets idle [hostW idle.cfg 0x020 9]).WritesWindow 0x020 9 ∧ idle.busy = false ∧ idle.err = 0) ∧
      ((meets inError [hostW inError.cfg 0x020 9]).WritesWindow 0x020 9 ∧ inError.err ≠ 0) ∧
      (idle.rst = false ∧ decode (BitVec.ofNat 32 (0xFFFFFFFF00000001 : Word).toNat) = .error .fixedZeroBit) ∧
      (meets idle [hostR idle.cfg 0x020]).ReadsWindow 0x020 := by decide

theorem witness_CtrlRegister :
    (meets idle [hostR idle.cfg 0x008]).ReadsWindow 0x008 ∧
      ((meets idle [hostW idle.cfg 0x008 7]).WritesWindow 0x008 7 ∧ (7 : Word)[1] = true) ∧
      (meets idle [hostW idle.cfg 0x008 5]).WritesWindow 0x008 5 ∧ (5 : Word)[1] = false := by decide

theorem witness_StatusRegister :
    (meets inError [hostR inError.cfg 0x010]).ReadsWindow 0x010 ∧
      (meets inError [hostW inError.cfg 0x010 14]).WritesWindow 0x010 14 := by decide

/-- One step for each row of the table of R29: DECOMP of a value too wide for `N` limbs, acceptance, a dropped write,
a STATUS write, ERRCLR. -/
theorem witness_FlagsChangeOnlyAsTabled :
    (∃ t, step (latched idle 0x11010000) = .next t ∧ (latched idle 0x11010000).busy = true ∧ t.busy = false ∧
        (latched idle 0x11010000).done = false ∧ t.done = true ∧
        (latched idle 0x11010000).trunc = false ∧ t.trunc = true) ∧
      (∃ t, step { idle with done := true, arrivals := [hostW idle.cfg 0x020 0] } = .next t ∧ t.busy = true ∧
        t.done = false) ∧
      (∃ t, step { idle with busy := true, arrivals := [hostW idle.cfg 0x028 0] } = .next t ∧ t.ovr = true) ∧
      (∃ t, step (meets inError [hostW inError.cfg 0x010 14]) = .next t ∧ t.done = false ∧ t.trunc = false ∧
        t.ovr = false) ∧
      (∃ t, step (latched idle 0x0A212000) = .next t ∧ t.err ≠ idle.err ∧ t.err ≠ 0) ∧
      ∃ t, step (meets inError [hostW inError.cfg 0x008 4]) = .next t ∧ inError.err ≠ 0 ∧ t.err = 0 := by
  and_intros <;> exact ⟨_, rfl, by decide⟩

theorem witness_DinRegister :
    ((meets idle [hostW idle.cfg 0x028 5]).WritesWindow 0x028 5 ∧ idle.busy = false) ∧
      (State.WritesWindow { idle with busy := true, arrivals := [hostW idle.cfg 0x028 5] } 0x028 5) ∧
      (meets idle [hostR idle.cfg 0x028]).ReadsWindow 0x028 := by decide

/-- The ends of both reserved ranges (with `LMAX = 4` the second begins at `0x120`), read and written; a read-only
register and the last OBUF entry, written. -/
theorem witness_ReservedAndReadOnly :
    idle.cfg.Valid ∧ 0x100 + 8 * idle.cfg.lmax = 0x120 ∧
      (∀ off ∈ [0x048, 0x0F8, 0x120, 0xFF8], off % 8 = 0 ∧ (meets idle [hostR idle.cfg off]).ReadsWindow off ∧
        (meets idle [hostW idle.cfg off 9]).WritesWindow off 9) ∧
      (∀ off ∈ [0x000, 0x040, 0x100 + 8 * 3], (meets idle [hostW idle.cfg off 9]).WritesWindow off 9) ∧
      (meets idle [hostR idle.cfg 0x020]).ReadsWindow 0x020 := by decide

/-- A 32-bit read, and a 64-bit write at an offset that is no multiple of 8, at the last byte of the window. -/
theorem witness_RefusedAccesses :
    ((meets idle [.read 0x010 32]).rst = false ∧ (meets idle [.read 0x010 32]).nextUp = .read (idle.cfg.smdcBase + 0x010) 32) ∧
      4095 < 4096 ∧ 4095 % 8 ≠ 0 ∧
      (meets idle [.write 4095 64 9]).nextUp = .write (idle.cfg.smdcBase + 4095) 64 9 := by decide

theorem witness_IdleReadsAreExact :
    idle.cfg.Valid ∧ idle.busy = false ∧ 3 < idle.cfg.lmax ∧
      ∀ off ∈ [0x018, 0x030, 0x038, 0x040, 0x100, 0x118], (meets idle [hostR idle.cfg off]).ReadsWindow off := by decide

theorem witness_IdentificationIsConstant :
    idle.cfg.Valid ∧ idle.cfg.lmax = 4 ∧ (meets idle [hostR idle.cfg 0x000]).ReadsWindow 0x000 ∧
      (meets idle [hostW idle.cfg 0x000 9]).WritesWindow 0x000 9 := by decide

theorem witness_BusyReadsAreFree :
    (latched idle 0).cfg.Valid ∧ (latched idle 0).busy = true ∧
      ∀ off ∈ [0x018, 0x030, 0x038, 0x040, 0x100, 0x118, 0x008, 0x010, 0x028],
        (meets (latched idle 0) [hostR idle.cfg off]).ReadsWindow off := by decide

/-- While idle the read may be repeated. -/
theorem witness_ReadsHaveNoSideEffect :
    (meets idle [hostR idle.cfg 0x018, hostR idle.cfg 0x018]).nextUp = .read 0x018 64 ∧ idle.busy = false ∧
      ∃ t, step (meets idle [hostR idle.cfg 0x018, hostR idle.cfg 0x018]) = .next t ∧ t.nextUp = .read 0x018 64 ∧
        ∃ u, step t = .next u := by
  refine ⟨by decide, by decide, _, rfl, by decide, _, rfl⟩

theorem witness_RegistersNotHostReadable :
    (meets idle [hostR idle.cfg 0x030]).nextUp ≠ .engineTurn ∧
      ∃ t, step (meets idle [hostR idle.cfg 0x030]) = .next t := by
  refine ⟨by decide, _, rfl⟩

/-- With TRUNC already equal to the changed value, and with TRUNC set. -/
theorem witness_OutcomeIndependentOfFlags :
    (∃ t, exec (.decomp 1) idle = .next t) ∧ idle.trunc = false := ⟨⟨_, rfl⟩, by decide⟩

/-- One step in which each register changes, none of them a reset. -/
theorem witness_RegistersChangeOnlyAsRuled :
    (∃ t, step (latched idle 0x01000004) = .next t ∧ t.n ≠ idle.n) ∧
      (∃ t, step (latched idle 0x10000000) = .next t ∧ t.dout ≠ idle.dout) ∧
      (∃ t, step (latched idle 0x11000000) = .next t ∧ t.obuf ≠ idle.obuf ∧ t.ocnt ≠ idle.ocnt) ∧
      (∃ t, step (latched idle 0x0A212000) = .next t ∧ t.errcmd ≠ idle.errcmd) ∧
      (∃ t, step (latched idle 0x02000000) = .next t ∧ t.xs ≠ idle.xs) ∧
      (∃ t, step (meets idle [hostW idle.cfg 0x028 9]) = .next t ∧ t.din ≠ idle.din) ∧
      (∃ t, step (meets idle [hostW idle.cfg 0x008 1]) = .next t ∧ t.ie ≠ idle.ie) ∧
      ∃ t, step (meets idle [hostW idle.cfg 0x020 9]) = .next t ∧ t.cur ≠ idle.cur := by
  and_intros <;> exact ⟨_, rfl, by decide⟩

theorem witness_notResetting : ¬(latched idle 0x01000004).Resetting := by
  rintro (⟨level, h, _⟩ | ⟨d, h, _⟩)
  · exact absurd h (by simp [latched, State.withCommand, State.nextUp])
  · exact absurd h.1 (by simp [latched, State.withCommand, State.nextUp])

theorem witness_InterruptLevel :
    ((latched idle 0).Completing ∧ ∃ t, step (latched idle 0) = .next t) ∧
      ((meets inError [hostW inError.cfg 0x010 2]).WritesWindow 0x010 2 ∧ (2 : Word)[1] = true ∧
        ∃ t, step (meets inError [hostW inError.cfg 0x010 2]) = .next t) ∧
      ((meets idle [hostW idle.cfg 0x020 9]).WritesWindow 0x020 9 ∧ idle.busy = false ∧ idle.err = 0 ∧
        ∃ t, step (meets idle [hostW idle.cfg 0x020 9]) = .next t) ∧
      (meets inError [hostW inError.cfg 0x008 0]).WritesWindow 0x008 0 ∧ (0 : Word)[0] = false ∧
      ∃ t, step (meets inError [hostW inError.cfg 0x008 0]) = .next t := by
  refine ⟨⟨by decide, _, rfl⟩, ⟨by decide, by decide, _, rfl⟩, ⟨by decide, by decide, by decide, _, rfl⟩, by decide,
    by decide, _, rfl⟩

/-- RST held with an access waiting; RST released; RST asserted; RST released when it was not asserted (the polarity
here is active high). -/
theorem witness_HardReset :
    (State.rst { idle with rst := true, arrivals := [hostR idle.cfg 0] } = true ∧
        ∀ level, State.nextUp { idle with rst := true, arrivals := [hostR idle.cfg 0] } ≠ .rst level) ∧
      (State.nextUp { idle with rst := true, arrivals := [.rst false] } = .rst false ∧
        false ≠ idle.cfg.rstPolarity.activeHigh) ∧
      ((meets idle [.rst true]).nextUp = .rst true ∧ true = idle.cfg.rstPolarity.activeHigh) ∧
      (meets idle [.rst false]).nextUp = .rst false ∧ idle.rst = false := by
  decide

theorem witness_SoftReset : (meets (latched idle 0) [hostW idle.cfg 0x008 7]).WritesWindow 0x008 7 ∧ (7 : Word)[1] = true := by
  decide

theorem witness_SoftResetAndCompletionOrders :
    (latched idle 0x01000004).rst = false ∧ (latched idle 0x01000004).busy = true ∧ (2 : Word)[1] = true := by decide

theorem witness_ResetIsWf : Config.Valid { Config.standard with lmax := 480 } ∧ Config.Valid { Config.standard with lmax := 1 } := by
  decide

theorem witness_StepKeepsWf : (latched idle 0x0A210000).Wf ∧ ∃ t, step (latched idle 0x0A210000) = .next t := by
  refine ⟨by decide +kernel, _, rfl⟩

/-- With a poll still to arrive before the engine's turn, and with nothing left to arrive. -/
theorem witness_EveryAcceptedCommandEnds :
    ((latched idle 0).busy = true ∧ (latched idle 0).rst = false ∧
        ∀ a ∈ (meets (latched idle 0) [hostR idle.cfg 0x010, .read 4095 8, .engineTurn]).arrivals,
          a.inWindow idle.cfg = true) ∧
      ∀ a ∈ (meets (latched idle 0) []).arrivals, a.inWindow idle.cfg = true := by decide

/-- A read at the first address past the window. -/
theorem witness_ArrivalsTakenInOrder :
    (∃ t, step idle = .next t) ∧ (meets idle [.read 4096 64]).rst = false ∧ idle.cfg.smdcBase + 4096 ≤ 4096 ∧
      (meets idle [.read 4096 64]).nextUp = .read 4096 64 := by
  refine ⟨⟨_, rfl⟩, by decide⟩

theorem witness_HostCheckIsSound :
    idle.rst = false ∧
      (meets idle [hostW idle.cfg 0x020 ((0x0A210000 : CmdWord).setWidth 64), .engineTurn]).arrivals =
        [hostW idle.cfg 0x020 ((0x0A210000 : CmdWord).setWidth 64), .engineTurn] ∧
      errorCause (.div 2 1 0) idle = 0 ∧ errorCause (.div 3 1 2) idle = 0x03 := by decide

end Sys2Proof.Tests
end

section
/-! The statements of the scope family: the engine's turn (O5), what a host access can learn of the registers (O48), and
the invariant (O57). -/

namespace Sys2Proof.Machine

open Sys2Proof

/-! ### The engine's turn -/

/-- The complete step of a latched word that decodes is that command's (spec R10, R76). -/
theorem completeCommand_of_decode {s : State} {i : Instr} (h : decode s.cur = .ok i) :
    completeCommand s = exec i s := by
  simp [completeCommand, h]

/-- While idle the engine's turn retains the state (spec R190). -/
theorem engineTurn_idle {s : State} (h : s.busy = false) : engineTurn s = .next s := by
  simp [engineTurn, h]

/-- Settles O5: the complete step of a decoded command is `exec` of it, and the idle turn takes its arrival only. -/
theorem stepRunsDecodedCommand : Obligations.StepRunsDecodedCommand := by
  refine ⟨fun s i hc hd => ?_, fun s ht hb => ?_⟩
  · rw [step_completing hc]
    exact completeCommand_of_decode hd
  · rw [step_eq_arrive, ht]
    exact engineTurn_idle hb

/-! ### Two states that differ in the big-integer registers alone -/

/-- The same state with another register file. -/
abbrev State.withXs (xs' : XRegs) (s : State) : State := { s with xs := xs' }

/-- `t'` is `t` but for `X0` to `X7`. -/
abbrev State.EqButXs (t t' : State) : Prop := t'.withXs t.xs = t

theorem State.EqButXs.resp_eq {t t' : State} (h : t.EqButXs t') : t'.resp = t.resp :=
  (congrArg State.resp h :)

theorem State.EqButXs.answer {t t' : State} (h : t.EqButXs t') (r : Option Response) :
    State.EqButXs { t with resp := r } { t' with resp := r } :=
  (congrArg (fun u : State => { u with resp := r }) h :)

/-- A level on RST resets both states alike or changes neither (spec R200). -/
theorem State.rstLevel_eqButXs (xs' : XRegs) (s : State) (level : Bool) :
    (s.rstLevel level).EqButXs ((s.withXs xs').rstLevel level) := by
  unfold State.rstLevel
  cases rstAsserts s.cfg level <;> cases s.rst <;> rfl

/-- No register of the window shows a big-integer register (spec R11, R20, R51). -/
theorem State.windowValue_withXs (xs' : XRegs) (s : State) (r : WindowReg) :
    (s.withXs xs').windowValue r = s.windowValue r := by
  cases r <;> rfl

/-- A read has the same answer and draws the same free value in both states (spec R206). -/
theorem State.readRegister_eqButXs (xs' : XRegs) (s : State) (r : WindowReg) :
    (s.readRegister r).EqButXs ((s.withXs xs').readRegister r) := by
  unfold State.readRegister
  rw [State.windowValue_withXs]
  cases s.busy && r.unspecifiedWhileBusy <;> rfl

/-- A write has the same effect on both states; a soft reset (spec R201) makes them equal. -/
theorem State.windowWrite_eqButXs (xs' : XRegs) (s : State) (r : WindowReg) (d : Word) :
    (s.windowWrite r d).EqButXs ((s.withXs xs').windowWrite r d) := by
  cases r with
  | ctrl =>
    show (s.ctrlWrite d).EqButXs ((s.withXs xs').ctrlWrite d)
    unfold State.ctrlWrite
    cases d[1] <;> cases d[2] <;> rfl
  | cmd =>
    show (s.cmdWrite d).EqButXs ((s.withXs xs').cmdWrite d)
    unfold State.cmdWrite
    by_cases h : s.busy = false ∧ s.err = 0 <;> simp only [h, if_false] <;> rfl
  | din =>
    show (s.dinWrite d).EqButXs ((s.withXs xs').dinWrite d)
    unfold State.dinWrite
    cases s.busy <;> rfl
  | id | status | lcount | dout | errcmd | ocnt | obuf | reserved => rfl

/-- An arrival that is not the engine's turn is answered alike and leaves the same but for `X0` to `X7` (spec R11). -/
theorem arrive_eqButXs {a : Arrival} {s t : State} (xs' : XRegs) (ha : a ≠ .engineTurn) (h : arrive a s = .next t) :
    ∃ t', arrive a (s.withXs xs') = .next t' ∧ t.EqButXs t' := by
  rcases arrive_cases h with ⟨rfl, _⟩ | ⟨level, rfl, e⟩ | ⟨addr, bits, rfl, ⟨hr, e⟩ | ⟨hr, e⟩⟩ |
      ⟨addr, bits, d, rfl, ⟨hr, e⟩ | ⟨hr, e⟩⟩
  · exact absurd rfl ha
  · cases e
    exact ⟨_, rfl, s.rstLevel_eqButXs xs' level⟩
  · cases e
    exact ⟨(s.withXs xs').unanswered, by simp [arrive, hr], rfl⟩
  · rcases hostRead_cases e with ⟨_, e⟩ | ⟨off, ho, ⟨hp, e⟩ | ⟨hp, e⟩⟩ <;> cases e
    · exact ⟨_, by simp only [arrive, hr, hostRead, ho, hp]; rfl, s.readRegister_eqButXs xs' _⟩
    · exact ⟨_, by simp only [arrive, hr, hostRead, ho, hp]; rfl, rfl⟩
  · cases e
    exact ⟨(s.withXs xs').unanswered, by simp [arrive, hr], rfl⟩
  · rcases hostWrite_cases e with ⟨_, e⟩ | ⟨off, ho, ⟨hp, e⟩ | ⟨hp, e⟩⟩ <;> cases e
    · exact ⟨_, by simp only [arrive, hr, hostWrite, ho, hp]; rfl, (s.windowWrite_eqButXs xs' _ d).answer _⟩
    · exact ⟨_, by simp only [arrive, hr, hostWrite, ho, hp]; rfl, rfl⟩

/-- Settles O48: the arrival that the step takes is the same for both states. -/
theorem registersNotHostReadable : Obligations.RegistersNotHostReadable := by
  intro s t xs' ha h
  rw [step_eq_arrive] at h
  obtain ⟨t', h', he⟩ := arrive_eqButXs xs' ha h
  exact ⟨t', by rw [step_eq_arrive]; exact h', he.resp_eq, he⟩

/-! ### Bounds of what the commands write -/

/-- `N` limbs, and twice as many, fit in a register (spec R5, R20). -/
theorem State.NLegal.lt_cap {s : State} (h : s.NLegal) : 128 * s.n.toNat < s.cfg.cap := by
  unfold State.NLegal at h
  unfold Config.cap Config.k
  omega

/-- LDL of a limb of the register stays within the register (spec R20, R154). -/
theorem replaceLimb_lt {v j k : Nat} (w : Word) (hv : v < 2 ^ (64 * k)) (hj : j < k) :
    replaceLimb v j w < 2 ^ (64 * k) := by
  obtain ⟨u, rfl⟩ : ∃ u, k = j + 1 + u := ⟨k - (j + 1), by omega⟩
  have above : v / 2 ^ (64 * (j + 1)) < 2 ^ (64 * u) :=
    Nat.div_lt_of_lt_mul (by rwa [← pow_add, ← Nat.mul_add])
  have split : 2 ^ (64 * (j + 1 + u)) = 2 ^ (64 * j) * (2 ^ 64 * 2 ^ (64 * u)) := by
    rw [← pow_add, ← pow_add]; congr 1; ring
  rw [replaceLimb_eq, split]
  exact Nat.add_mul_lt_mul_of_lt_of_lt (Nat.mod_lt _ (by positivity)) (Nat.add_mul_lt_mul_of_lt_of_lt w.isLt above)

/-- The three Barrett constants fit in twice `n` limbs (spec R131). -/
theorem barrettConstants_le {n p : Nat} {c : BarrettConstants} (h : barrettConstants n p = .ok c) :
    c.r ≤ 2 ^ (128 * n) ∧ c.s ≤ 2 ^ (128 * n) ∧ c.t ≤ 2 ^ (128 * n) := by
  have wide : 2 ^ (64 * n) ≤ 2 ^ (128 * n) := Nat.pow_le_pow_right (by decide) (by omega)
  rcases barrettConstants_cases h with ⟨_, e⟩ | ⟨_, e, _⟩ | ⟨_, e⟩ <;> cases e
  exact ⟨(Nat.div_le_self _ _).trans wide, (Nat.sub_le _ _).trans (Nat.div_le_self _ _), (Nat.sub_le _ _).trans wide⟩

/-! ### The invariant, part by part -/

/-- While RST is released nothing is held. -/
theorem State.rstHeld_of_released {s : State} (h : s.rst = false) : s.RstHeld := fun ht => by simp [h] at ht

theorem State.busyClean_of_idle {s : State} (h : s.busy = false) : s.BusyClean := fun ht => by simp [h] at ht

theorem State.XBounded.setX {s : State} (h : s.XBounded) (i : XIdx) {v : Nat} (hv : v < 2 ^ s.cfg.cap) :
    (s.setX i v).XBounded := fun r => by
  rw [State.x_setX, State.setX_cfg]
  split
  · exact hv
  · exact h r

theorem State.XBounded.setTriple {s : State} (h : s.XBounded) (rd : XIdx) {c : BarrettConstants}
    (hr : c.r < 2 ^ s.cfg.cap) (hs : c.s < 2 ^ s.cfg.cap) (ht : c.t < 2 ^ s.cfg.cap) : (s.setTriple rd c).XBounded :=
  ((h.setX rd hr).setX (rd + 1) hs).setX (rd + 2) ht

/-- ERRCMD takes the command word zero-extended (spec R176). -/
theorem State.raise_errLegal (s : State) (e : ErrorCode) : (s.raise e).ErrLegal := by
  refine ⟨e.code_range.2, ?_⟩
  have := s.cur.isLt
  simp only [State.raise_errcmd, BitVec.toNat_setWidth]
  omega

theorem State.Wf.valid {s : State} (h : s.Wf) : s.cfg.Valid := h.1

theorem State.Wf.xBounded {s : State} (h : s.Wf) : s.XBounded := h.2.1

/-- The invariant speaks neither of the answer nor of what is still to arrive. -/
theorem State.Wf.answer {s : State} (h : s.Wf) (r : Option Response) : State.Wf { s with resp := r } := h

theorem State.Wf.taken {s : State} (h : s.Wf) : s.taken.Wf := by
  obtain ⟨hc, hx, hn, ho, he, hb, hr⟩ := h
  exact ⟨hc, hx, hn, ho, he, hb, fun ht => (congrArg State.taken (hr ht) :)⟩

/-- A reset puts the block in the invariant, whatever the level on RST then is (spec R200). -/
theorem State.resetBlock_wf {s : State} (hc : s.cfg.Valid) (level : Bool) :
    State.Wf { s.resetBlock with rst := level } := by
  refine ⟨hc, fun r => ?_, Nat.zero_le _, ⟨by simp, Nat.zero_le _, fun j _ _ => ?_⟩,
    ⟨Nat.zero_le _, (by decide : (0 : Word).toNat < 2 ^ 32)⟩, State.busyClean_of_idle rfl, fun ht => ?_⟩
  · exact (s.x_resetBlock r).trans_lt (by positivity)
  · simp [List.getD]
  · cases ht; rfl

theorem State.rstLevel_wf {s : State} (h : s.Wf) (level : Bool) : (s.rstLevel level).Wf := by
  rcases s.rstLevel_cases level with ⟨_, e⟩ | ⟨_, _, e⟩ | ⟨_, _, e⟩ <;> rw [e]
  · exact State.resetBlock_wf h.valid true
  · exact State.resetBlock_wf h.valid false
  · exact h

/-! ### A command keeps the invariant -/

/-- The end of a command (spec R177), RST being released: what is written must be legal, and nothing else. -/
theorem State.complete_wf {t : State} (hrst : t.rst = false) (hc : t.cfg.Valid) (hx : t.XBounded) (hn : t.NLegal)
    (ho : t.ObufLegal) (he : t.ErrLegal) : t.complete.Wf :=
  ⟨hc, hx, hn, ho, he, State.busyClean_of_idle rfl, State.rstHeld_of_released hrst⟩

section
variable {s t : State} (h : s.Wf) (hrst : s.rst = false)
include h hrst

/-- An error taken keeps the invariant (spec R175, R176). -/
theorem State.raise_complete_wf (e : ErrorCode) : (s.raise e).complete.Wf := by
  obtain ⟨hc, hx, hn, ho, _, _, _⟩ := h
  exact State.complete_wf hrst hc hx hn ho (s.raise_errLegal e)

/-- A command that writes one register within its capacity keeps the invariant. -/
theorem State.setX_complete_wf (rd : XIdx) {v : Nat} (hv : v < 2 ^ s.cfg.cap) : (s.setX rd v).complete.Wf := by
  obtain ⟨hc, hx, hn, ho, he, _, _⟩ := h
  exact State.complete_wf hrst hc (hx.setX rd hv) hn ho he

theorem execSetn_wf {k : BitVec 16} (e : execSetn k s = .next t) : t.Wf := by
  rcases execSetn_cases e with ⟨_, e⟩ | ⟨_, hk, e⟩ <;> cases e
  · exact State.raise_complete_wf h hrst _
  · obtain ⟨hc, hx, _, ho, he, _, _⟩ := h
    exact State.complete_wf (t := { s with n := k }) hrst hc hx hk ho he

theorem execLdl_wf {d : XIdx} {j : BitVec 16} (e : execLdl d j s = .next t) : t.Wf := by
  rcases execLdl_cases e with ⟨_, e⟩ | ⟨hj, e⟩ <;> cases e
  · exact State.raise_complete_wf h hrst _
  · exact State.setX_complete_wf h hrst d (replaceLimb_lt s.din (h.xBounded d) hj)

theorem execPow2_wf {d : XIdx} {m : BitVec 16} (e : execPow2 d m s = .next t) : t.Wf := by
  rcases execPow2_cases e with ⟨_, e⟩ | ⟨hm, e⟩ <;> cases e
  · exact State.raise_complete_wf h hrst _
  · exact State.setX_complete_wf h hrst d (Nat.pow_lt_pow_right (by decide) hm)

theorem execPow2n_wf {d : XIdx} {m : BitVec 16} (e : execPow2n d m s = .next t) : t.Wf := by
  rcases execPow2n_cases e with ⟨_, e⟩ | ⟨_, _, e⟩ | ⟨_, hm, e⟩ <;> cases e
  · exact State.raise_complete_wf h hrst _
  · exact State.raise_complete_wf h hrst _
  · exact State.setX_complete_wf h hrst d (Nat.pow_lt_pow_right (by decide) hm)

theorem execDiv_wf {d a b : XIdx} (e : execDiv d a b s = .next t) : t.Wf := by
  rcases execDiv_cases e with ⟨_, e⟩ | ⟨_, e⟩ <;> cases e
  · exact State.raise_complete_wf h hrst _
  · exact State.setX_complete_wf h hrst d ((Nat.div_le_self _ _).trans_lt (h.xBounded a))

theorem execMul_wf {d a b : XIdx} (e : execMul d a b s = .next t) : t.Wf := by
  rcases execMul_cases e with ⟨_, e⟩ | ⟨hv, e⟩ <;> cases e
  · exact State.raise_complete_wf h hrst _
  · exact State.setX_complete_wf h hrst d hv

theorem execSub_wf {d a b : XIdx} (e : execSub d a b s = .next t) : t.Wf := by
  rcases execSub_cases e with ⟨_, e⟩ | ⟨_, e⟩ <;> cases e
  · exact State.raise_complete_wf h hrst _
  · exact State.setX_complete_wf h hrst d ((Nat.sub_le _ _).trans_lt (h.xBounded a))

theorem execDecomp_wf {p : XIdx} (e : execDecomp p s = .next t) : t.Wf := by
  rcases execDecomp_cases e with ⟨_, e⟩ | ⟨_, e⟩ <;> cases e
  · exact State.raise_complete_wf h hrst _
  · obtain ⟨hc, hx, hn, _, he, _, _⟩ := h
    refine ⟨hc, hx, hn, ⟨limbSequence_length _ _ _, hn, fun j hj hnj => ?_⟩, he, State.busyClean_of_idle rfl,
      State.rstHeld_of_released hrst⟩
    exact (limbSequence_getD _ _ _ _).trans (by rw [if_pos hj, if_neg (Nat.not_lt.mpr hnj)])

theorem execBarrett_wf {d p : XIdx} (e : execBarrett d p s = .next t) : t.Wf := by
  rcases execBarrett_cases e with ⟨_, e⟩ | ⟨_, _, e⟩ | ⟨_, _, _, _, e⟩ | ⟨_, _, c, hk, e⟩ <;> cases e
  · exact State.raise_complete_wf h hrst _
  · exact State.raise_complete_wf h hrst _
  · exact State.raise_complete_wf h hrst _
  · obtain ⟨hc, hx, hn, ho, he, _, _⟩ := h
    have fits : 2 ^ (128 * s.n.toNat) < 2 ^ s.cfg.cap := Nat.pow_lt_pow_right (by decide) hn.lt_cap
    obtain ⟨hr, hs, ht⟩ := barrettConstants_le hk
    exact State.complete_wf hrst hc (hx.setTriple d (hr.trans_lt fits) (hs.trans_lt fits) (ht.trans_lt fits)) hn ho he

/-- Every command keeps the invariant. -/
theorem exec_wf {i : Instr} (e : exec i s = .next t) : t.Wf := by
  have ⟨hc, hx, hn, ho, he, _, _⟩ := h
  cases i with
  | nop => cases e; exact State.complete_wf hrst hc hx hn ho he
  | setn k => exact execSetn_wf h hrst e
  | clr d => cases e; exact State.setX_complete_wf h hrst d (by positivity)
  | mov d p => cases e; exact State.setX_complete_wf h hrst d (hx p)
  | ldl d j => exact execLdl_wf h hrst e
  | pow2 d m => exact execPow2_wf h hrst e
  | pow2n d m => exact execPow2n_wf h hrst e
  | div d a b => exact execDiv_wf h hrst e
  | mul d a b => exact execMul_wf h hrst e
  | sub d a b => exact execSub_wf h hrst e
  | limb p j => cases e; exact ⟨hc, hx, hn, ho, he, State.busyClean_of_idle rfl, State.rstHeld_of_released hrst⟩
  | decomp p => exact execDecomp_wf h hrst e
  | barrett d p => exact execBarrett_wf h hrst e

/-! ### A host access keeps the invariant -/

theorem State.readRegister_wf (r : WindowReg) : (s.readRegister r).Wf := by
  rcases s.readRegister_cases r with ⟨_, _, e⟩ | ⟨_, e⟩ <;> rw [e]
  · obtain ⟨hc, hx, hn, ho, he, hb, _⟩ := h
    exact ⟨hc, hx, hn, ho, he, hb, State.rstHeld_of_released hrst⟩
  · exact h.answer _

theorem State.ctrlWrite_wf (d : Word) : (s.ctrlWrite d).Wf := by
  obtain ⟨hc, hx, hn, ho, he, hb, _⟩ := h
  rcases s.ctrlWrite_cases d with ⟨_, e⟩ | ⟨_, _, e⟩ | ⟨_, _, e⟩ <;> rw [e]
  · exact State.resetBlock_wf hc s.rst
  · exact ⟨hc, hx, hn, ho, ⟨Nat.zero_le _, he.2⟩, fun busy => ⟨rfl, (hb busy).2⟩, State.rstHeld_of_released hrst⟩
  · exact ⟨hc, hx, hn, ho, he, hb, State.rstHeld_of_released hrst⟩

theorem State.statusWrite_wf (d : Word) : (s.statusWrite d).Wf := by
  obtain ⟨hc, hx, hn, ho, he, hb, _⟩ := h
  refine ⟨hc, hx, hn, ho, he, fun busy => ⟨(hb busy).1, ?_⟩, State.rstHeld_of_released hrst⟩
  rw [State.statusWrite_done, (hb busy).2, Bool.false_and]

theorem State.dropWrite_wf : s.dropWrite.Wf := by
  obtain ⟨hc, hx, hn, ho, he, hb, _⟩ := h
  exact ⟨hc, hx, hn, ho, he, hb, State.rstHeld_of_released hrst⟩

/-- Acceptance needs `ERR = 0` and clears DONE (spec R34), which is what a command in flight rests on. -/
theorem State.cmdWrite_wf (d : Word) : (s.cmdWrite d).Wf := by
  rcases s.cmdWrite_cases d with ⟨_, herr, e⟩ | ⟨_, e⟩ <;> rw [e]
  · obtain ⟨hc, hx, hn, ho, he, _, _⟩ := h
    exact ⟨hc, hx, hn, ho, he, fun _ => ⟨herr, rfl⟩, State.rstHeld_of_released hrst⟩
  · exact State.dropWrite_wf h hrst

theorem State.dinWrite_wf (d : Word) : (s.dinWrite d).Wf := by
  rcases s.dinWrite_cases d with ⟨_, e⟩ | ⟨_, e⟩ <;> rw [e]
  · exact State.dropWrite_wf h hrst
  · obtain ⟨hc, hx, hn, ho, he, hb, _⟩ := h
    exact ⟨hc, hx, hn, ho, he, hb, State.rstHeld_of_released hrst⟩

theorem State.windowWrite_wf (r : WindowReg) (d : Word) : (s.windowWrite r d).Wf := by
  cases r with
  | ctrl => exact State.ctrlWrite_wf h hrst d
  | status => exact State.statusWrite_wf h hrst d
  | cmd => exact State.cmdWrite_wf h hrst d
  | din => exact State.dinWrite_wf h hrst d
  | id | lcount | dout | errcmd | ocnt | obuf | reserved => exact h

theorem hostRead_wf {addr bits : Nat} (e : hostRead addr bits s = .next t) : t.Wf := by
  rcases hostRead_cases e with ⟨_, e⟩ | ⟨off, _, ⟨_, e⟩ | ⟨_, e⟩⟩ <;> cases e
  · exact State.readRegister_wf h hrst _
  · exact h.answer _

theorem hostWrite_wf {addr bits : Nat} {d : Word} (e : hostWrite addr bits d s = .next t) : t.Wf := by
  rcases hostWrite_cases e with ⟨_, e⟩ | ⟨off, _, ⟨_, e⟩ | ⟨_, e⟩⟩ <;> cases e
  · exact (State.windowWrite_wf h hrst _ d).answer _
  · exact h.answer _

end

/-! ### A step keeps the invariant -/

/-- The engine's turn keeps the invariant: it is the complete step only while RST is released (spec R200). -/
theorem engineTurn_wf {s t : State} (h : s.Wf) (e : engineTurn s = .next t) : t.Wf := by
  rcases engineTurn_cases e with ⟨_, e⟩ | ⟨hrst, _, e⟩
  · cases e; exact h
  · rcases completeCommand_cases e.symm with ⟨i, _, e⟩ | ⟨_, _, e⟩
    · exact exec_wf h hrst e.symm
    · cases e; exact State.raise_complete_wf h hrst _

theorem arrive_wf {a : Arrival} {s t : State} (h : s.Wf) (e : arrive a s = .next t) : t.Wf := by
  rcases arrive_cases e with ⟨_, e⟩ | ⟨level, _, e⟩ | ⟨addr, bits, _, ⟨_, e⟩ | ⟨hrst, e⟩⟩ |
      ⟨addr, bits, d, _, ⟨_, e⟩ | ⟨hrst, e⟩⟩
  · exact engineTurn_wf h e
  · cases e; exact State.rstLevel_wf h level
  · cases e; exact h.answer none
  · exact hostRead_wf h hrst e
  · cases e; exact h.answer none
  · exact hostWrite_wf h hrst e

/-- Settles O57: taking the arrival off the list keeps the invariant, and so does whatever arrives. -/
theorem stepKeepsWf : Obligations.StepKeepsWf := by
  intro s t h e
  rw [step_eq_arrive] at e
  exact arrive_wf h.taken e

end Sys2Proof.Machine
end

section
/-! The statements of the state family: what each window register answers and takes (O37 to O39, O41, O44, O45), what may
change each element over a step (O23, O40, O50), what a command reads of the flags (O49), and the reset values (O52,
O56). -/

namespace Sys2Proof.Machine

open Sys2Proof

/-! ### One access of the window as one step -/

/-- What is still to arrive shows in no register of the window. -/
theorem State.windowValue_taken (s : State) (r : WindowReg) : s.taken.windowValue r = s.windowValue r := by
  cases r <;> rfl

/-- A read answers its register exactly while idle, and while busy too unless it is a result register (spec R206). -/
theorem step_exactRead {s : State} {off : Nat} {r : WindowReg} (h : s.ReadsWindow off) (ho : off < 4096)
    (h8 : off % 8 = 0) (hr : windowReg s.cfg off = r) (hx : s.busy = false ∨ r.unspecifiedWhileBusy = false) :
    step s = .next { s.taken with resp := some (.readData (s.windowValue r)) } := by
  rw [step_readsWindow h ho h8, hr]
  rcases s.taken.readRegister_cases r with ⟨hb, hu, _⟩ | ⟨_, e⟩
  · simp_all
  · rw [e, State.windowValue_taken]

/-- A CTRL write without a soft reset (spec R28). -/
theorem State.ctrlWrite_of_noReset {d : Word} (s : State) (h : d[1] = false) :
    s.ctrlWrite d = { s with ie := d[0], err := if d[2] then 0 else s.err } := by
  rcases s.ctrlWrite_cases d with ⟨h1, _⟩ | ⟨_, h2, e⟩ | ⟨_, h2, e⟩
  · simp [h] at h1
  · rw [e, h2]; rfl
  · rw [e, h2]; rfl

theorem step_ctrlWrite {s : State} {d : Word} (h : s.WritesWindow 0x008 d) (h1 : d[1] = false) :
    step s = .next { s.taken with ie := d[0], err := if d[2] then 0 else s.err, resp := some .writeDone } := by
  rw [step_writesWindow h (by decide) (by decide)]
  simp only [windowReg_ctrl, State.writeRegister, State.windowWrite, State.ctrlWrite_of_noReset _ h1]

/-- A soft reset as one step (spec R201). -/
theorem step_softReset {s : State} {d : Word} (h : s.WritesWindow 0x008 d) (h1 : d[1] = true) :
    step s = .next { s.taken.resetBlock with resp := some .writeDone } := by
  rw [step_writesWindow h (by decide) (by decide)]
  simp only [windowReg_ctrl, State.writeRegister, State.windowWrite, State.ctrlWrite, h1, if_true]

/-- An accepted CMD write as one step (spec R34); bits 63:32 of the data are ignored (spec R70). -/
theorem step_cmdAccepted {s : State} {d : Word} (h : s.WritesWindow 0x020 d) (hb : s.busy = false) (he : s.err = 0) :
    step s = .next { s.taken with
      cur := BitVec.ofNat 32 d.toNat, done := false, busy := true, resp := some .writeDone } := by
  rw [step_writesWindow h (by decide) (by decide), BitVec.ofNat_toNat]
  simp only [windowReg_cmd, State.writeRegister, State.windowWrite, State.cmdWrite, hb, he, and_self, if_true,
    State.accept]

/-- A dropped CMD write as one step (spec R34). -/
theorem step_cmdDropped {s : State} {d : Word} (h : s.WritesWindow 0x020 d) (hd : s.busy = true ∨ s.err ≠ 0) :
    step s = .next { s.taken with ovr := true, resp := some .writeDone } := by
  rw [step_writesWindow h (by decide) (by decide), windowReg_cmd]
  rcases s.taken.cmdWrite_cases d with ⟨hb, he, _⟩ | ⟨_, e⟩
  · simp_all
  · simp only [State.writeRegister, State.windowWrite, e, State.dropWrite]

/-- The complete step of an illegal word (spec R76, R77). -/
theorem step_illegal {s : State} (hc : s.Completing) (hd : ∀ i, decode s.cur ≠ .ok i) :
    step s = .next (s.taken.raise .illegalCommand).complete := by
  rcases completeCommand_cases (step_completing hc).symm with ⟨i, hi, _⟩ | ⟨_, _, e⟩
  · exact absurd hi (hd i)
  · exact e

/-! ### The registers of the window, one by one -/

/-- Settles O37: an illegal word takes two steps, its acceptance and the complete step that raises. -/
theorem commandAcceptance : Obligations.CommandAcceptance := by
  refine ⟨fun s d h hb he => ⟨_, step_cmdAccepted h hb he⟩, fun s d h hd => ⟨_, step_cmdDropped h hd⟩,
    fun s d hr hb he hd => ⟨some .writeDone, ?_⟩, fun s h => ?_⟩
  · have accepted := step_cmdAccepted (s := { s with arrivals := [hostW s.cfg 0x020 d, .engineTurn] })
      ⟨rfl, hr⟩ hb he
    have raised := step_illegal
      (s := { s with
              cur := BitVec.ofNat 32 d.toNat, done := false, busy := true, arrivals := [.engineTurn]
              resp := some .writeDone })
      ⟨rfl, hr, rfl⟩ hd
    have errcmd : BitVec.ofNat 64 (d.toNat % 2 ^ 32) = (BitVec.ofNat 32 d.toNat).setWidth 64 := by
      rw [← BitVec.ofNat_toNat, BitVec.toNat_ofNat]
    rw [run_succ_of_next accepted, errcmd]
    exact run_succ_of_next raised
  · exact step_exactRead h (by decide) (by decide) (windowReg_cmd _) (.inr rfl)

/-- A read of CTRL shows IE in bit 0 and nothing else (spec R28). -/
theorem State.ctrlWord_eq (s : State) : s.ctrlWord = if s.ie then 1 else 0 := by
  unfold State.ctrlWord
  cases s.ie <;> rfl

/-- Settles O38: the soft reset leaves RST released, since the write came while it was. -/
theorem ctrlRegister : Obligations.CtrlRegister := by
  refine ⟨fun s h => ?_, fun s d h h1 => ?_, fun s d h h1 => ⟨_, step_ctrlWrite h h1⟩, fun _ => rfl, fun _ => rfl⟩
  · rw [← s.ctrlWord_eq]
    exact step_exactRead h (by decide) (by decide) (windowReg_ctrl _) (.inr rfl)
  · refine ⟨s.arrivals.tail, s.draws, some .writeDone, ?_⟩
    rw [step_softReset h h1, State.resetBlock, h.2]
    rfl

/-- The four flags of STATUS as a number: each in its own bit. -/
theorem flags_toNat : ∀ b d t o : Bool, (flagAt b 0 ||| flagAt d 1 ||| flagAt t 2 ||| flagAt o 3).toNat =
    b.toNat + 2 * d.toNat + 4 * t.toNat + 8 * o.toNat := by decide

/-- The layout of STATUS (spec R29): ERR begins above the flags, so that the parts add up. -/
theorem State.statusWord_toNat (s : State) : s.statusWord.toNat =
    s.busy.toNat + 2 * s.done.toNat + 4 * s.trunc.toNat + 8 * s.ovr.toNat + 256 * s.err.toNat := by
  have flags := flags_toNat s.busy s.done s.trunc s.ovr
  have hb := s.busy.toNat_le
  have hd := s.done.toNat_le
  have ht := s.trunc.toNat_le
  have ho := s.ovr.toNat_le
  have he := s.err.isLt
  have err : (s.err.setWidth 64 <<< 8).toNat = s.err.toNat <<< 8 := by
    simp only [BitVec.toNat_shiftLeft, BitVec.toNat_setWidth, Nat.shiftLeft_eq]
    omega
  rw [State.statusWord, BitVec.toNat_or, flags, err, Nat.or_comm, ← Nat.shiftLeft_add_eq_or_of_lt (by omega),
    Nat.shiftLeft_eq]
  omega

/-- A STATUS write clears the flags whose bits are 1 (spec R29). -/
theorem State.statusWrite_eq (s : State) (d : Word) :
    s.statusWrite d =
      { s with
        done := if d[1] then false else s.done
        trunc := if d[2] then false else s.trunc
        ovr := if d[3] then false else s.ovr } := by
  unfold State.statusWrite
  cases d[1] <;> cases d[2] <;> cases d[3] <;> simp

/-- Settles O39: STATUS is no result register, so its read is exact while busy too. -/
theorem statusRegister : Obligations.StatusRegister := by
  refine ⟨fun s h => ?_, State.statusWord_toNat, fun s d h => ?_⟩
  · exact step_exactRead h (by decide) (by decide) (windowReg_status _) (.inr rfl)
  · rw [step_writesWindow h (by decide) (by decide), windowReg_status]
    simp only [State.writeRegister, State.windowWrite, State.statusWrite_eq]

/-- Settles O41: DIN is no result register (spec R206). -/
theorem dinRegister : Obligations.DinRegister := by
  refine ⟨fun s d h hb => ?_, fun s d h hb => ?_, fun s h => ?_⟩
  · rw [step_writesWindow h (by decide) (by decide), windowReg_din]
    simp [State.writeRegister, State.windowWrite, State.dinWrite, hb]
  · rw [step_writesWindow h (by decide) (by decide), windowReg_din]
    simp [State.writeRegister, State.windowWrite, State.dinWrite, hb, State.dropWrite]
  · exact step_exactRead h (by decide) (by decide) (windowReg_din _) (.inr rfl)

/-- Settles O44: the OBUF entries all lie in the window, since `LMAX` is at most 480. -/
theorem idleReadsAreExact : Obligations.IdleReadsAreExact := by
  intro s hv hb
  obtain ⟨_, hmax, _⟩ := hv
  refine ⟨fun h => ?_, fun h => ?_, fun h => ?_, fun h => ?_, fun j hj h => ?_⟩
  · rw [BitVec.ofNat_toNat]
    exact step_exactRead h (by decide) (by decide) (windowReg_lcount _) (.inl hb)
  · exact step_exactRead h (by decide) (by decide) (windowReg_dout _) (.inl hb)
  · exact step_exactRead h (by decide) (by decide) (windowReg_errcmd _) (.inl hb)
  · rw [BitVec.ofNat_toNat]
    exact step_exactRead h (by decide) (by decide) (windowReg_ocnt _) (.inl hb)
  · exact step_exactRead h (by omega) (by omega) (windowReg_obuf _ hj) (.inl hb)

/-- The layout of ID (spec R31): LMAX is its lowest 16 bits. -/
theorem State.idWord_eq {s : State} (h : s.cfg.lmax < 2 ^ 16) :
    s.idWord = BitVec.ofNat 64 (0x534D4443 * 2 ^ 32 + 0x0001 * 2 ^ 16 + s.cfg.lmax) := by
  have fits : (BitVec.ofNat 16 s.cfg.lmax).toNat = s.cfg.lmax := Nat.mod_eq_of_lt h
  have upper : ((0x534D4443 : BitVec 32) ++ (0x0001 : BitVec 16)).toNat = 0x534D4443 * 2 ^ 16 + 0x0001 := by decide
  apply BitVec.eq_of_toNat_eq
  rw [State.idWord, BitVec.toNat_append, fits, upper, ← Nat.shiftLeft_add_eq_or_of_lt h, Nat.shiftLeft_eq,
    BitVec.toNat_ofNat]
  omega

/-- Settles O45: `LMAX` fits in its 16 bits. -/
theorem identificationIsConstant : Obligations.IdentificationIsConstant := by
  have read {s : State} (h : s.ReadsWindow 0x000) : step s = .next { s.taken with resp := some (.readData s.idWord) } :=
    step_exactRead h (by decide) (by decide) (windowReg_id _) (.inr rfl)
  refine ⟨fun s hv h => ?_, fun s d h => ⟨some .writeDone, ?_⟩, fun s h4 h => ?_⟩
  · obtain ⟨_, hmax, _⟩ := hv
    rw [read h, State.idWord_eq (by omega)]
  · rw [step_writesWindow h (by decide) (by decide), windowReg_id]
    rfl
  · rw [read h, State.idWord_eq (by omega), h4]
    rfl

/-! ### The reset values -/

/-- Settles O52: the block after reset is idle and without an error, so the CMD write is accepted. -/
theorem resetValues : Obligations.ResetValues := by
  intro c
  have idle : step (State.resetWith c) = .next (State.resetWith c) := engineTurn_idle (State.resetWith_busy c)
  refine ⟨State.x_resetWith c, rfl, rfl, rfl, by simp, fun j => by simp [List.getD], rfl, rfl, rfl, rfl, rfl, rfl, rfl,
    rfl, rfl, rfl, rfl, idle, fun d => ?_⟩
  exact step_cmdAccepted (s := { State.resetWith c with arrivals := [hostW c 0x020 d] }) ⟨rfl, rfl⟩ rfl rfl

/-- Settles O56: the state after reset is what a reset makes of itself. -/
theorem resetIsWf : Obligations.ResetIsWf := by
  have wf : ∀ c : Config, c.Valid → (State.resetWith c).Wf := fun c hc =>
    State.resetBlock_wf (s := State.resetWith c) hc false
  refine ⟨?_, wf⟩
  rw [State.reset]
  exact wf Config.standard (by decide)

end Sys2Proof.Machine
end

section
/-! The statements of the state family over every step: what may change each element (O23, O40, O50), and what a command
reads of the flags (O49). -/

namespace Sys2Proof.Machine

open Sys2Proof

/-! ### What a complete step writes -/

/-- The writes of a complete step, by the registers they touch (spec R175 to R177): an error's, those of a command that
writes big-integer registers or nothing, and those of the three commands that write other registers. -/
inductive State.Ended (s : State) : State → Prop
  | raised (e : ErrorCode) : s.Ended (s.raise e).complete
  | wroteXs (xs' : XRegs) : s.Ended (State.complete { s with xs := xs' })
  | setn (k : BitVec 16) (hd : decode s.cur = .ok (.setn k)) (h1 : 1 ≤ k.toNat) (hk : k.toNat ≤ s.cfg.lmax) :
    s.Ended (State.complete { s with n := k })
  | limb (p : XIdx) (j : BitVec 16) (hd : decode s.cur = .ok (.limb p j)) :
    s.Ended (State.complete { s with dout := Machine.limb (s.x p) j.toNat })
  | decomp (p : XIdx) (hd : decode s.cur = .ok (.decomp p)) :
    s.Ended
      (State.complete
        { s with
          obuf := limbSequence s.cfg.lmax s.n.toNat (s.x p)
          ocnt := s.n
          trunc := truncAfter s.trunc s.n.toNat (s.x p) })

/-- A command that writes one big-integer register or raises an error. -/
theorem State.ended_setX {s t : State} {r : Except ErrorCode Nat} {d : XIdx}
    (h : commit s (r.map (s.setX d)) = .next t) : s.Ended t := by
  rcases commit_map_setX h with ⟨v, _, e⟩ | ⟨c, _, e⟩ <;> cases e
  · exact .wroteXs (s.xs.set v d)
  · exact .raised c

/-- Every decoded command ends in one of these ways. -/
theorem exec_ended {i : Instr} {s t : State} (hd : decode s.cur = .ok i) (h : exec i s = .next t) : s.Ended t := by
  cases i with
  | nop => cases h; exact .wroteXs s.xs
  | setn k =>
    rcases execSetn_cases h with ⟨_, e⟩ | ⟨h1, hk, e⟩ <;> cases e
    · exact .raised _
    · exact .setn k hd (Nat.one_le_iff_ne_zero.mpr h1) hk
  | clr d => cases h; exact .wroteXs (s.xs.set 0 d)
  | mov d p => cases h; exact .wroteXs (s.xs.set (s.x p) d)
  | ldl d j =>
    rcases execLdl_cases h with ⟨_, e⟩ | ⟨_, e⟩ <;> cases e
    · exact .raised _
    · exact .wroteXs (s.xs.set _ d)
  | pow2 d m => rw [exec, execPow2] at h; exact State.ended_setX h
  | pow2n d m =>
    rcases execPow2n_cases h with ⟨_, e⟩ | ⟨_, _, e⟩ | ⟨_, _, e⟩ <;> cases e
    · exact .raised _
    · exact .raised _
    · exact .wroteXs (s.xs.set _ d)
  | div d a b => rw [exec, execDiv] at h; exact State.ended_setX h
  | mul d a b => rw [exec, execMul] at h; exact State.ended_setX h
  | sub d a b => rw [exec, execSub] at h; exact State.ended_setX h
  | limb p j => cases h; exact .limb p j hd
  | decomp p =>
    rcases execDecomp_cases h with ⟨_, e⟩ | ⟨_, e⟩ <;> cases e
    · exact .raised _
    · exact .decomp p hd
  | barrett d p =>
    rcases execBarrett_cases h with ⟨_, e⟩ | ⟨_, _, e⟩ | ⟨_, _, c, _, e⟩ | ⟨_, _, c, _, e⟩ <;> cases e
    · exact .raised _
    · exact .raised _
    · exact .raised c
    · exact .wroteXs (s.setTriple d c).xs

theorem completeCommand_ended {s t : State} (h : completeCommand s = .next t) : s.Ended t := by
  rcases completeCommand_cases h with ⟨i, hd, e⟩ | ⟨_, _, e⟩
  · exact exec_ended hd e.symm
  · cases e; exact .raised _

/-- An error's code is not the code for no error (spec R171). -/
theorem ErrorCode.code_ne_zero (e : ErrorCode) : e.code ≠ 0 := by
  cases e <;> decide

namespace State.Ended

variable {s t : State} (h : s.Ended t)
include h

/-- What no complete step writes, and what every complete step writes (spec R177). -/
theorem frame : t.busy = false ∧ t.done = true ∧ t.ovr = s.ovr ∧ t.din = s.din ∧ t.ie = s.ie ∧ t.cur = s.cur ∧
    t.rst = s.rst := by
  cases h <;> exact ⟨rfl, rfl, rfl, rfl, rfl, rfl, rfl⟩

/-- ERR and ERRCMD are written together, or neither (spec R176). -/
theorem err_errcmd : (t.err = s.err ∧ t.errcmd = s.errcmd) ∨ (t.err ≠ 0 ∧ t.errcmd = s.cur.setWidth 64) := by
  cases h with
  | raised e => exact .inr ⟨e.code_ne_zero, rfl⟩
  | wroteXs | setn | limb | decomp => exact .inl ⟨rfl, rfl⟩

theorem n_changed (hn : t.n ≠ s.n) :
    ∃ k, decode s.cur = .ok (.setn k) ∧ t.n = k ∧ 1 ≤ k.toNat ∧ k.toNat ≤ s.cfg.lmax := by
  cases h with
  | setn k hd h1 hk => exact ⟨k, hd, rfl, h1, hk⟩
  | raised | wroteXs | limb | decomp => exact absurd rfl hn

theorem dout_changed (hn : t.dout ≠ s.dout) : ∃ p j, decode s.cur = .ok (.limb p j) := by
  cases h with
  | limb p j hd => exact ⟨p, j, hd⟩
  | raised | wroteXs | setn | decomp => exact absurd rfl hn

theorem obuf_ocnt_changed (hn : t.obuf ≠ s.obuf ∨ t.ocnt ≠ s.ocnt) : ∃ p, decode s.cur = .ok (.decomp p) := by
  cases h with
  | decomp p hd => exact ⟨p, hd⟩
  | raised | wroteXs | setn | limb => simp at hn

/-- TRUNC is sticky, and set by a DECOMP of a value that is too wide alone (spec R137). -/
theorem trunc_cases : t.trunc = s.trunc ∨
    (t.trunc = true ∧ ∃ p, decode s.cur = .ok (.decomp p) ∧ 2 ^ (64 * s.n.toNat) ≤ s.x p) := by
  cases h with
  | decomp p hd =>
    by_cases wide : 2 ^ (64 * s.n.toNat) ≤ s.x p
    · exact .inr ⟨by simp [truncAfter, wide], p, hd, wide⟩
    · exact .inl (by simp [truncAfter, wide])
  | raised | wroteXs | setn | limb => exact .inl rfl

end State.Ended

/-! ### What a step writes -/

/-- The effect of one step, by what causes it: a complete step, a reset, one of the host writes that have an effect
(spec R28, R29, R34, R23), or nothing but an answer and the count of drawn free values. -/
inductive State.Effect (s : State) : State → Prop
  | completed {t : State} (hc : s.Completing) (he : s.taken.Ended t) : s.Effect t
  | reset (hr : s.Resetting) (level : Bool) (r : Option Response) :
    s.Effect { s.taken.resetBlock with rst := level, resp := r }
  | answered (r : Option Response) (k : Nat) : s.Effect { s.taken with resp := r, draws := k }
  | ctrl (d : Word) (hw : s.WritesWindow 0x008 d) (h1 : d[1] = false) (r : Option Response) :
    s.Effect { s.taken with ie := d[0], err := if d[2] then 0 else s.err, resp := r }
  | status (d : Word) (hw : s.WritesWindow 0x010 d) (r : Option Response) :
    s.Effect { s.taken.statusWrite d with resp := r }
  | accepted (d : Word) (hw : s.WritesWindow 0x020 d) (hb : s.busy = false) (he : s.err = 0) (r : Option Response) :
    s.Effect { s.taken.accept (d.setWidth 32) with resp := r }
  | cmdDropped (d : Word) (hw : s.WritesWindow 0x020 d) (hd : s.busy = true ∨ s.err ≠ 0) (r : Option Response) :
    s.Effect { s.taken.dropWrite with resp := r }
  | dinStored (d : Word) (hw : s.WritesWindow 0x028 d) (hb : s.busy = false) (r : Option Response) :
    s.Effect { s.taken with din := d, resp := r }
  | dinDropped (d : Word) (hw : s.WritesWindow 0x028 d) (hb : s.busy = true) (r : Option Response) :
    s.Effect { s.taken.dropWrite with resp := r }

/-- The offset of a register that a host write can have an effect on (spec R51, R52). -/
def WindowReg.writableAt : WindowReg → Option Nat
  | .ctrl => some 0x008
  | .status => some 0x010
  | .cmd => some 0x020
  | .din => some 0x028
  | .id | .lcount | .dout | .errcmd | .ocnt | .obuf _ | .reserved => none

/-- Each such register lies at its offset alone (spec R51): row by row of the map. -/
theorem windowReg_writableAt {c : Config} {off o : Nat} : (windowReg c off).writableAt = some o → off = o := by
  unfold windowReg
  repeat' apply iteInduction (motive := fun r : WindowReg => r.writableAt = some o → off = o) <;> intro _
  all_goals intro h; cases h <;> assumption

/-- An address of the window is its base and an offset (spec R50). -/
theorem windowOffset_eq_some {c : Config} {addr off : Nat} (h : windowOffset c addr = some off) :
    addr = c.smdcBase + off := by
  unfold windowOffset at h
  split at h
  · cases h; omega
  · cases h

/-- A permitted write has one of these effects, by the register it addresses. -/
theorem State.writeRegister_effect {s : State} {off : Nat} {d : Word} (hw : s.WritesWindow off d) :
    s.Effect (s.taken.writeRegister (windowReg s.cfg off) d) := by
  have place {o : Nat} := windowReg_writableAt (c := s.cfg) (off := off) (o := o)
  unfold State.writeRegister
  cases hr : windowReg s.cfg off with
  | ctrl =>
    obtain rfl : off = 0x008 := place (by rw [hr]; rfl)
    rw [State.windowWrite]
    cases h1 : d[1] with
    | true =>
      rw [State.ctrlWrite, if_pos h1]
      exact .reset (.inr ⟨d, hw, h1⟩) s.rst _
    | false =>
      rw [State.ctrlWrite_of_noReset _ h1]
      exact .ctrl d hw h1 _
  | status =>
    obtain rfl : off = 0x010 := place (by rw [hr]; rfl)
    exact .status d hw _
  | cmd =>
    obtain rfl : off = 0x020 := place (by rw [hr]; rfl)
    rw [State.windowWrite]
    rcases s.taken.cmdWrite_cases d with ⟨hb, he, e⟩ | ⟨hd, e⟩ <;> rw [e]
    · exact .accepted d hw hb he _
    · exact .cmdDropped d hw hd _
  | din =>
    obtain rfl : off = 0x028 := place (by rw [hr]; rfl)
    rw [State.windowWrite]
    rcases s.taken.dinWrite_cases d with ⟨hb, e⟩ | ⟨hb, e⟩ <;> rw [e]
    · exact .dinDropped d hw hb _
    · exact .dinStored d hw hb _
  | id | lcount | dout | errcmd | ocnt | obuf | reserved => exact .answered _ _

/-- A permitted read has no effect but its answer (spec R56). -/
theorem State.readRegister_effect (s : State) (r : WindowReg) : s.Effect (s.taken.readRegister r) := by
  rcases s.taken.readRegister_cases r with ⟨_, _, e⟩ | ⟨_, e⟩ <;> rw [e] <;> exact .answered _ _

/-- A level on RST resets the block, or is already present and released (spec R200). -/
theorem State.rstLevel_effect {s : State} {level : Bool} (hup : s.nextUp = .rst level) :
    s.Effect (s.taken.rstLevel level) := by
  rcases s.taken.rstLevel_cases level with ⟨ha, e⟩ | ⟨_, hr, e⟩ | ⟨_, _, e⟩ <;> rw [e]
  · exact .reset (.inl ⟨level, hup, .inl (beq_iff_eq.mp ha)⟩) true none
  · exact .reset (.inl ⟨level, hup, .inr hr⟩) false none
  · exact .answered _ _

/-- All one step can do. -/
theorem step_effect {s t : State} (h : step s = .next t) : s.Effect t := by
  rw [step_eq_arrive] at h
  rcases arrive_cases h with ⟨hup, e⟩ | ⟨level, hup, e⟩ | ⟨addr, bits, hup, ⟨_, e⟩ | ⟨hr, e⟩⟩ |
      ⟨addr, bits, d, hup, ⟨_, e⟩ | ⟨hr, e⟩⟩
  · rcases engineTurn_cases e with ⟨_, e⟩ | ⟨hr, hb, e⟩
    · cases e; exact .answered _ _
    · exact .completed ⟨hup, hr, hb⟩ (completeCommand_ended e.symm)
  · cases e; exact State.rstLevel_effect hup
  · cases e; exact .answered _ _
  · rcases hostRead_cases e with ⟨_, e⟩ | ⟨off, _, ⟨_, e⟩ | ⟨_, e⟩⟩ <;> cases e
    · exact s.readRegister_effect _
    · exact .answered _ _
  · cases e; exact .answered _ _
  · rcases hostWrite_cases e with ⟨_, e⟩ | ⟨off, ho, ⟨hp, e⟩ | ⟨_, e⟩⟩ <;> cases e
    · obtain ⟨rfl, _⟩ := (permitted_iff _ _).mp hp
      obtain rfl := windowOffset_eq_some ho
      exact State.writeRegister_effect ⟨hup, hr⟩
    · exact .answered _ _

/-! ### What may change each element over a step -/

namespace State.Effect

variable {s t : State} (h : s.Effect t)
include h

theorem busy_set (h0 : s.busy = false) (h1 : t.busy = true) : ∃ d, s.WritesWindow 0x020 d ∧ s.err = 0 := by
  cases h with
  | accepted d hw _ he => exact ⟨d, hw, he⟩
  | completed _ he => simp [he.frame] at h1
  | reset => cases h1
  | answered | ctrl | status | cmdDropped | dinStored | dinDropped => simp [h0] at h1

theorem busy_cleared (h0 : s.busy = true) (h1 : t.busy = false) : s.Completing ∨ s.Resetting := by
  cases h with
  | completed hc => exact .inl hc
  | reset hr => exact .inr hr
  | answered | ctrl | status | accepted | cmdDropped | dinStored | dinDropped => simp [h0] at h1

theorem done_set (h0 : s.done = false) (h1 : t.done = true) : s.Completing := by
  cases h with
  | completed hc => exact hc
  | reset | answered | ctrl | status | accepted | cmdDropped | dinStored | dinDropped => simp [h0] at h1

theorem done_cleared (h0 : s.done = true) (h1 : t.done = false) :
    s.Resetting ∨ (∃ d, s.WritesWindow 0x010 d ∧ d[1] = true) ∨
      ∃ d, s.WritesWindow 0x020 d ∧ s.busy = false ∧ s.err = 0 := by
  cases h with
  | reset hr => exact .inl hr
  | status d hw => exact .inr (.inl ⟨d, hw, by simpa [h0] using h1⟩)
  | accepted d hw hb he => exact .inr (.inr ⟨d, hw, hb, he⟩)
  | completed _ he => simp [he.frame] at h1
  | answered | ctrl | cmdDropped | dinStored | dinDropped => simp [h0] at h1

theorem trunc_set (h0 : s.trunc = false) (h1 : t.trunc = true) :
    s.Completing ∧ ∃ p, decode s.cur = .ok (.decomp p) ∧ 2 ^ (64 * s.n.toNat) ≤ s.x p := by
  cases h with
  | completed hc he =>
    rcases he.trunc_cases with e | ⟨_, wide⟩
    · simp [e, h0] at h1
    · exact ⟨hc, wide⟩
  | reset | answered | ctrl | status | accepted | cmdDropped | dinStored | dinDropped => simp [h0] at h1

theorem trunc_cleared (h0 : s.trunc = true) (h1 : t.trunc = false) :
    s.Resetting ∨ ∃ d, s.WritesWindow 0x010 d ∧ d[2] = true := by
  cases h with
  | reset hr => exact .inl hr
  | status d hw => exact .inr ⟨d, hw, by simpa [h0] using h1⟩
  | completed _ he => rcases he.trunc_cases with e | ⟨e, _⟩ <;> simp [e, h0] at h1
  | answered | ctrl | accepted | cmdDropped | dinStored | dinDropped => simp [h0] at h1

theorem ovr_set (h0 : s.ovr = false) (h1 : t.ovr = true) :
    (∃ d, s.WritesWindow 0x020 d ∧ (s.busy = true ∨ s.err ≠ 0)) ∨ ∃ d, s.WritesWindow 0x028 d ∧ s.busy = true := by
  cases h with
  | cmdDropped d hw hd => exact .inl ⟨d, hw, hd⟩
  | dinDropped d hw hb => exact .inr ⟨d, hw, hb⟩
  | completed _ he => simp [he.frame, h0] at h1
  | reset | answered | ctrl | status | accepted | dinStored => simp [h0] at h1

theorem ovr_cleared (h0 : s.ovr = true) (h1 : t.ovr = false) :
    s.Resetting ∨ ∃ d, s.WritesWindow 0x010 d ∧ d[3] = true := by
  cases h with
  | reset hr => exact .inl hr
  | status d hw => exact .inr ⟨d, hw, by simpa [h0] using h1⟩
  | completed _ he => simp [he.frame, h0] at h1
  | answered | ctrl | accepted | cmdDropped | dinStored | dinDropped => simp [h0] at h1

theorem err_set (h0 : t.err ≠ s.err) (h1 : t.err ≠ 0) : s.Completing := by
  cases h with
  | completed hc => exact hc
  | ctrl d => cases h2 : d[2] <;> simp [h2] at h0 h1
  | reset => exact absurd rfl h1
  | answered | status | accepted | cmdDropped | dinStored | dinDropped => exact absurd rfl h0

theorem err_cleared (h0 : s.err ≠ 0) (h1 : t.err = 0) :
    s.Resetting ∨ ∃ d, s.WritesWindow 0x008 d ∧ d[1] = false ∧ d[2] = true := by
  cases h with
  | reset hr => exact .inl hr
  | ctrl d hw hs =>
    cases h2 : d[2] with
    | true => exact .inr ⟨d, hw, hs, h2⟩
    | false => simp [h2] at h1; exact absurd h1 h0
  | completed _ he =>
    rcases he.err_errcmd with ⟨e, _⟩ | ⟨e, _⟩
    · exact absurd (e.symm.trans h1) h0
    · exact absurd h1 e
  | answered | status | accepted | cmdDropped | dinStored | dinDropped => exact absurd h1 h0

/-- The registers that the complete step alone writes (spec R20, R22, R24 to R27), over every step that is no reset. -/
theorem ended_of_changed (hr : ¬s.Resetting)
    (h0 : t.n ≠ s.n ∨ t.dout ≠ s.dout ∨ t.obuf ≠ s.obuf ∨ t.ocnt ≠ s.ocnt ∨ t.errcmd ≠ s.errcmd ∨ t.xs ≠ s.xs) :
    s.Completing ∧ s.taken.Ended t := by
  cases h with
  | completed hc he => exact ⟨hc, he⟩
  | reset hs => exact absurd hs hr
  | answered | ctrl | status | accepted | cmdDropped | dinStored | dinDropped => simp at h0

theorem din_changed (hr : ¬s.Resetting) (h0 : t.din ≠ s.din) : s.busy = false ∧ s.WritesWindow 0x028 t.din := by
  cases h with
  | dinStored d hw hb => exact ⟨hb, hw⟩
  | completed _ he => simp [he.frame] at h0
  | reset hs => exact absurd hs hr
  | answered | ctrl | status | accepted | cmdDropped | dinDropped => exact absurd rfl h0

theorem ie_changed (hr : ¬s.Resetting) (h0 : t.ie ≠ s.ie) : ∃ d, s.WritesWindow 0x008 d ∧ t.ie = d[0] := by
  cases h with
  | ctrl d hw => exact ⟨d, hw, rfl⟩
  | completed _ he => simp [he.frame] at h0
  | reset hs => exact absurd hs hr
  | answered | status | accepted | cmdDropped | dinStored | dinDropped => exact absurd rfl h0

theorem cur_changed (hr : ¬s.Resetting) (h0 : t.cur ≠ s.cur) :
    ∃ d, s.WritesWindow 0x020 d ∧ s.busy = false ∧ s.err = 0 ∧ t.cur = BitVec.ofNat 32 d.toNat := by
  cases h with
  | accepted d hw hb he => exact ⟨d, hw, hb, he, (BitVec.ofNat_toNat 32 d).symm⟩
  | completed _ he => simp [he.frame] at h0
  | reset hs => exact absurd hs hr
  | answered | ctrl | status | cmdDropped | dinStored | dinDropped => exact absurd rfl h0

theorem rst_kept (hr : ¬s.Resetting) : t.rst = s.rst := by
  cases h with
  | completed _ he => simp [he.frame]
  | reset hs => exact absurd hs hr
  | answered | ctrl | status | accepted | cmdDropped | dinStored | dinDropped => rfl

end State.Effect

/-- Settles O23: of the effects of a step only these two can leave ERR at 0. -/
theorem onlyErrclrOrResetClearsError : Obligations.OnlyErrclrOrResetClearsError := by
  refine ⟨fun s d h h1 h2 => ?_, fun s t h h0 h1 => (step_effect h).err_cleared h0 h1⟩
  rw [step_ctrlWrite h h1, if_pos h2]

/-- Settles O40: each clause is what the effect of the step says of that field. -/
theorem flagsChangeOnlyAsTabled : Obligations.FlagsChangeOnlyAsTabled := by
  intro s t h
  have effect := step_effect h
  refine ⟨effect.busy_set, effect.busy_cleared, effect.done_set, effect.done_cleared, effect.trunc_set,
    effect.trunc_cleared, effect.ovr_set, effect.ovr_cleared, effect.err_set, fun h0 h1 => ?_⟩
  exact (effect.err_cleared h0 h1).imp_right fun ⟨d, hw, _, h2⟩ => ⟨d, hw, h2⟩

/-- Settles O50: what the complete step writes is what its way of ending says, and each other register has its write. -/
theorem registersChangeOnlyAsRuled : Obligations.RegistersChangeOnlyAsRuled := by
  intro s t h hr
  have effect := step_effect h
  refine ⟨fun h0 => ?_, fun h0 => ?_, fun h0 => ?_, fun h0 => ?_, fun h0 => ?_, effect.din_changed hr,
    effect.ie_changed hr, effect.cur_changed hr, effect.rst_kept hr⟩
  · obtain ⟨hc, he⟩ := effect.ended_of_changed hr (by simp [h0])
    exact ⟨hc, he.n_changed h0⟩
  · obtain ⟨hc, he⟩ := effect.ended_of_changed hr (by simp [h0])
    exact ⟨hc, he.dout_changed h0⟩
  · obtain ⟨hc, he⟩ := effect.ended_of_changed hr (by tauto)
    exact ⟨hc, he.obuf_ocnt_changed h0⟩
  · obtain ⟨hc, he⟩ := effect.ended_of_changed hr (by simp [h0])
    obtain ⟨err, errcmd⟩ := he.err_errcmd.resolve_left fun ⟨_, e⟩ => h0 e
    exact ⟨hc, err, errcmd.trans (BitVec.ofNat_toNat 64 _).symm⟩
  · exact (effect.ended_of_changed hr (by simp [h0])).left

/-! ### What a command reads of the flags -/

/-- The same state with DONE, TRUNC and OVR at other values. -/
abbrev State.withFlags (a b c : Bool) (s : State) : State := { s with done := a, trunc := b, ovr := c }

theorem limbCount_withFlags (a b c : Bool) (s : State) : limbCount (s.withFlags a b c) = limbCount s := rfl

/-- A command at a state, given as what it does to a state, reads none of DONE, TRUNC and OVR (spec R32): with them
changed it writes the same, OVR stays, and TRUNC is set where `x` says so and otherwise stays. -/
def IgnoresFlags (f : State → Host.Outcome State Fault Refusal) (s : State) : Prop :=
  ∃ (t : State) (x : Bool), f s = .next t ∧ t.trunc = (s.trunc || x) ∧
    ∀ a b c, f (s.withFlags a b c) = .next { t with trunc := b || x, ovr := c }

/-- A command whose writes `w` of a result `r` neither read nor touch the flags. -/
theorem ignoresFlags_of_map {α : Type} {f : State → Host.Outcome State Fault Refusal} {s : State}
    (r : Except ErrorCode α) (w : State → α → State)
    (hf : ∀ a b c, f (s.withFlags a b c) = commit (s.withFlags a b c) (r.map (w (s.withFlags a b c))))
    (hw : ∀ v a b c, w (s.withFlags a b c) v = (w s v).withFlags a b c) : IgnoresFlags f s := by
  have hs : f s = commit s (r.map (w s)) := hf s.done s.trunc s.ovr
  cases r with
  | error e => exact ⟨_, false, hs, (Bool.or_false _).symm, fun a b c => by rw [hf, Bool.or_false]; rfl⟩
  | ok v =>
    have kept : (w s v).trunc = s.trunc := (congrArg State.trunc (hw v s.done s.trunc s.ovr) :)
    refine ⟨_, false, hs, kept.trans (Bool.or_false _).symm, fun a b c => ?_⟩
    rw [hf, Bool.or_false, Except.map, hw]
    rfl

/-- DECOMP sets TRUNC by the width of its operand alone (spec R137). -/
theorem execDecomp_ignoresFlags (p : XIdx) (s : State) : IgnoresFlags (execDecomp p) s := by
  rcases limbCount_cases s with ⟨_, e⟩ | ⟨_, e⟩
  · refine ignoresFlags_of_map (α := Unit) (.error .invalidParameters) (fun u _ => u) (fun a b c => ?_)
      fun _ _ _ _ => rfl
    rw [execDecomp, limbCount_withFlags, e]; rfl
  · refine ⟨_, decide (2 ^ (64 * s.n.toNat) ≤ s.x p), by rw [execDecomp, e]; rfl, rfl, fun a b c => ?_⟩
    rw [execDecomp, limbCount_withFlags, e]; rfl

/-- No command reads DONE, TRUNC or OVR. -/
theorem exec_ignoresFlags (i : Instr) (s : State) : IgnoresFlags (exec i) s := by
  cases i with
  | nop => exact ignoresFlags_of_map (.ok ()) (fun u _ => u) (fun _ _ _ => rfl) fun _ _ _ _ => rfl
  | setn k =>
    refine ignoresFlags_of_map
      (if k.toNat = 0 ∨ s.cfg.lmax < k.toNat then .error .invalidParameters else .ok k) (fun u v => { u with n := v })
      (fun a b c => ?_) fun _ _ _ _ => rfl
    rw [exec, execSetn]; split <;> rfl
  | clr d => exact ignoresFlags_of_map (.ok 0) (fun u => u.setX d) (fun _ _ _ => rfl) fun _ _ _ _ => rfl
  | mov d p => exact ignoresFlags_of_map (.ok (s.x p)) (fun u => u.setX d) (fun _ _ _ => rfl) fun _ _ _ _ => rfl
  | ldl d j =>
    refine ignoresFlags_of_map
      (if s.cfg.k ≤ j.toNat then .error .capacityOverflow else .ok (replaceLimb (s.x d) j.toNat s.din))
      (fun u => u.setX d) (fun a b c => ?_) fun _ _ _ _ => rfl
    rw [exec, execLdl]; split <;> rfl
  | pow2 d e =>
    exact ignoresFlags_of_map (powerOfTwo s.cfg.cap e.toNat) (fun u => u.setX d) (fun _ _ _ => rfl) fun _ _ _ _ => rfl
  | pow2n d m =>
    refine ignoresFlags_of_map ((limbCount s).bind fun n => powerOfTwo s.cfg.cap (64 * n * m.toNat))
      (fun u => u.setX d) (fun a b c => ?_) fun _ _ _ _ => rfl
    rw [exec, execPow2n, limbCount_withFlags]
    cases limbCount s <;> rfl
  | div d p q =>
    exact ignoresFlags_of_map (floorDiv (s.x p) (s.x q)) (fun u => u.setX d) (fun _ _ _ => rfl) fun _ _ _ _ => rfl
  | mul d p q =>
    exact ignoresFlags_of_map (multiply s.cfg.cap (s.x p) (s.x q)) (fun u => u.setX d) (fun _ _ _ => rfl)
      fun _ _ _ _ => rfl
  | sub d p q =>
    exact ignoresFlags_of_map (subtract (s.x p) (s.x q)) (fun u => u.setX d) (fun _ _ _ => rfl) fun _ _ _ _ => rfl
  | limb p j =>
    exact ignoresFlags_of_map (.ok (Machine.limb (s.x p) j.toNat)) (fun u v => { u with dout := v }) (fun _ _ _ => rfl)
      fun _ _ _ _ => rfl
  | decomp p => exact execDecomp_ignoresFlags p s
  | barrett d p =>
    refine ignoresFlags_of_map
      (if 5 < d.val then .error .illegalCommand else (limbCount s).bind fun n => barrettConstants n (s.x p))
      (fun u => u.setTriple d) (fun a b c => ?_) fun _ _ _ _ => rfl
    rw [exec, execBarrett, limbCount_withFlags]
    cases limbCount s <;> split <;> rfl

/-- Settles O49: what sets TRUNC does not depend on its old value. -/
theorem outcomeIndependentOfFlags : Obligations.OutcomeIndependentOfFlags := by
  intro i s t a b c h
  obtain ⟨t', x, h', htrunc, hflags⟩ := exec_ignoresFlags i s
  obtain rfl : t' = t := by rw [h'] at h; exact Host.Outcome.next.inj h
  refine ⟨_, hflags a b c, rfl, rfl, fun hb => ?_, fun hb => ?_⟩
  · rw [htrunc, hb]
  · rw [hb]; rfl

end Sys2Proof.Machine
end

section
/-! The statements of the memory family: the order of the arrivals and the fault outside the window (O59), refused
accesses and the byte lanes (O43), reserved offsets and read-only registers (O42), and reads (O47). -/

namespace Sys2Proof.Machine

open Sys2Proof

/-! ### What a step takes and where it faults -/

/-- No complete step writes the parameters or what is still to arrive (spec R175 to R177). -/
theorem State.Ended.arrivals_cfg {s t : State} (h : s.Ended t) : t.arrivals = s.arrivals ∧ t.cfg = s.cfg := by
  cases h <;> exact ⟨rfl, rfl⟩

/-- No effect of a step writes the parameters or reorders what is still to arrive (spec R55, R59). -/
theorem State.Effect.arrivals_cfg {s t : State} (h : s.Effect t) : t.arrivals = s.arrivals.tail ∧ t.cfg = s.cfg := by
  cases h with
  | completed _ he => exact he.arrivals_cfg
  | reset | answered | ctrl | status | accepted | cmdDropped | dinStored | dinDropped => exact ⟨rfl, rfl⟩

/-- An address has no offset exactly when it lies below or above the 4096 bytes of the window (spec R50). -/
theorem windowOffset_eq_none {c : Config} {addr : Nat} :
    windowOffset c addr = none ↔ addr < c.smdcBase ∨ c.smdcBase + 4096 ≤ addr := by
  simp only [windowOffset, ite_eq_right_iff, reduceCtorEq, imp_false]
  omega

/-- The next arrival is a host access at an address outside the window, and RST is released (spec R50, log 7). -/
abbrev State.AccessesOutside (s : State) (addr : Nat) : Prop :=
  s.rst = false ∧ (addr < s.cfg.smdcBase ∨ s.cfg.smdcBase + 4096 ≤ addr) ∧
    ((∃ bits, s.nextUp = .read addr bits) ∨ ∃ bits d, s.nextUp = .write addr bits d)

theorem step_accessesOutside {s : State} {addr : Nat} (h : s.AccessesOutside addr) :
    step s = .fault (.outsideWindow addr) := by
  obtain ⟨hr, outside, access⟩ := h
  have ho : windowOffset s.taken.cfg addr = none := windowOffset_eq_none.mpr outside
  rw [step_eq_arrive]
  rcases access with ⟨bits, hup⟩ | ⟨bits, d, hup⟩
  · rw [hup]; simp [arrive, hr, hostRead, ho]
  · rw [hup]; simp [arrive, hr, hostWrite, ho]

/-- A step answers a next state or faults on an access outside the window: no step is refused. -/
theorem step_isNext_or_accessesOutside (s : State) : (∃ t, step s = .next t) ∨ ∃ addr, s.AccessesOutside addr := by
  rcases arrive_cases (step_eq_arrive s).symm with ⟨_, e⟩ | ⟨level, _, e⟩ | ⟨addr, bits, hup, ⟨_, e⟩ | ⟨hr, e⟩⟩ |
      ⟨addr, bits, d, hup, ⟨_, e⟩ | ⟨hr, e⟩⟩
  · rcases engineTurn_cases e with ⟨_, e⟩ | ⟨_, _, e⟩
    · exact .inl ⟨_, e⟩
    · rw [e]; exact .inl (completeCommand_isNext _)
  · exact .inl ⟨_, e⟩
  · exact .inl ⟨_, e⟩
  · rcases hostRead_cases e with ⟨ho, _⟩ | ⟨off, _, ⟨_, e⟩ | ⟨_, e⟩⟩
    · exact .inr ⟨addr, hr, windowOffset_eq_none.mp ho, .inl ⟨bits, hup⟩⟩
    · exact .inl ⟨_, e⟩
    · exact .inl ⟨_, e⟩
  · exact .inl ⟨_, e⟩
  · rcases hostWrite_cases e with ⟨ho, _⟩ | ⟨off, _, ⟨_, e⟩ | ⟨_, e⟩⟩
    · exact .inr ⟨addr, hr, windowOffset_eq_none.mp ho, .inr ⟨bits, d, hup⟩⟩
    · exact .inl ⟨_, e⟩
    · exact .inl ⟨_, e⟩

/-- Settles O59: what a step answers is a next state or the fault of an access outside the window, which names its
address. -/
theorem arrivalsTakenInOrder : Obligations.ArrivalsTakenInOrder := by
  intro s
  refine ⟨fun t h => (step_effect h).arrivals_cfg, fun r h => ?_, fun addr => ⟨fun h => ?_, step_accessesOutside⟩⟩
  · rcases step_isNext_or_accessesOutside s with ⟨t, e⟩ | ⟨addr, outside⟩
    · rw [h] at e; cases e
    · rw [step_accessesOutside outside] at h; cases h
  · rcases step_isNext_or_accessesOutside s with ⟨t, e⟩ | ⟨addr', outside⟩
    · rw [h] at e; cases e
    · rw [step_accessesOutside outside] at h; cases h
      exact outside

/-! ### Refused accesses and the byte lanes -/

/-- An access of the window that is not permitted, as one step (spec R54). -/
theorem step_refuseAccess {s : State} {off bits : Nat} {d : Word} (hr : s.rst = false) (ho : off < 4096)
    (hp : permitted off bits = false)
    (hup : s.nextUp = .read (s.cfg.smdcBase + off) bits ∨ s.nextUp = .write (s.cfg.smdcBase + off) bits d) :
    step s = .next s.taken.refuseAccess := by
  rw [step_eq_arrive]
  rcases hup with hup | hup <;> rw [hup]
  · simp [arrive, hr, hostRead, windowOffset_base _ ho, hp]
  · simp [arrive, hr, hostWrite, windowOffset_base _ ho, hp]

theorem byteLane_toNat (v : Word) (k : Fin 8) : (byteLane v k).toNat = v.toNat / 2 ^ (8 * k.val) % 2 ^ 8 := by
  rw [byteLane, BitVec.extractLsb'_toNat, Nat.shiftRight_eq_div_pow]

/-- The lanes join from the highest down, each to the bits directly below (spec R54). -/
theorem ofByteLanes_byteLane (v : Word) :
    ofByteLanes (byteLane v 0) (byteLane v 1) (byteLane v 2) (byteLane v 3) (byteLane v 4) (byteLane v 5)
      (byteLane v 6) (byteLane v 7) = v := by
  have join {hi len : Nat} (k : Fin 8) (h : hi = 8 * k.val + 8) :
      v.extractLsb' hi len ++ byteLane v k = v.extractLsb' (8 * k.val) (len + 8) :=
    BitVec.extractLsb'_append_extractLsb'_eq_extractLsb' h
  have highest : byteLane v 7 = v.extractLsb' 56 8 := rfl
  rw [ofByteLanes, highest, join 6, join 5, join 4, join 3, join 2, join 1, join 0]
  · exact BitVec.extractLsb'_eq_self
  all_goals rfl

/-- Settles O43: an access of another width or alignment is not permitted. -/
theorem refusedAccesses : Obligations.RefusedAccesses := by
  refine ⟨fun s off bits d hr ho hbad hup => ?_, fun v => ⟨byteLane_toNat v, ofByteLanes_byteLane v⟩⟩
  have hp : permitted off bits = false := by
    rw [Bool.eq_false_iff, Ne, permitted_iff]
    omega
  exact step_refuseAccess hr ho hp hup

/-! ### Reserved offsets and read-only registers -/

/-- Both reserved ranges of the map (spec R51) lie above OCNT and hold no OBUF entry. -/
theorem windowReg_reserved {c : Config} {off : Nat}
    (h : (0x048 ≤ off ∧ off ≤ 0x0F8) ∨ (0x100 + 8 * c.lmax ≤ off ∧ off ≤ 0xFF8)) : windowReg c off = .reserved := by
  have named : ∀ o ≤ 0x040, off ≠ o := fun o _ => by omega
  have entry : ¬(0x100 ≤ off ∧ off < 0x100 + 8 * c.lmax) := by omega
  simp [windowReg, named, entry]

/-- A write to a register that takes none has no effect (spec R52). -/
theorem State.windowWrite_of_readOnly (s : State) {r : WindowReg} (d : Word) (h : r.writableAt = none) :
    s.windowWrite r d = s := by
  cases r with
  | ctrl | status | cmd | din => cases h
  | id | lcount | dout | errcmd | ocnt | obuf | reserved => rfl

/-- A write to a read-only register or a reserved offset as one step (spec R52). -/
theorem step_ignoredWrite {s : State} {off : Nat} {d : Word} {r : WindowReg} (h : s.WritesWindow off d)
    (ho : off < 4096) (h8 : off % 8 = 0) (hr : windowReg s.cfg off = r) (hro : r.writableAt = none) :
    step s = .next { s.taken with resp := some .writeDone } := by
  rw [step_writesWindow h ho h8, hr, State.writeRegister, State.windowWrite_of_readOnly _ d hro]

/-- Settles O42: by the register that lies at the offset. CMD and the reserved offsets are no result registers, so they
read 0 while busy too. -/
theorem reservedAndReadOnly : Obligations.ReservedAndReadOnly := by
  refine ⟨fun s off _ h8 range => ?_, fun s off d hv place h => ?_, fun s h => ?_⟩
  · have hr := windowReg_reserved range
    exact ⟨fun h => step_exactRead h (by omega) h8 hr (.inr rfl),
      fun d h => step_ignoredWrite h (by omega) h8 hr rfl⟩
  · rcases place with named | ⟨j, hj, rfl⟩
    · simp only [List.mem_cons, List.not_mem_nil, or_false] at named
      rcases named with rfl | rfl | rfl | rfl | rfl
      · exact step_ignoredWrite h (by decide) (by decide) (windowReg_id _) rfl
      · exact step_ignoredWrite h (by decide) (by decide) (windowReg_lcount _) rfl
      · exact step_ignoredWrite h (by decide) (by decide) (windowReg_dout _) rfl
      · exact step_ignoredWrite h (by decide) (by decide) (windowReg_errcmd _) rfl
      · exact step_ignoredWrite h (by decide) (by decide) (windowReg_ocnt _) rfl
    · obtain ⟨_, hmax, _⟩ := hv
      exact step_ignoredWrite h (by omega) (by omega) (windowReg_obuf _ hj) rfl
  · exact step_exactRead h (by decide) (by decide) (windowReg_cmd _) (.inr rfl)

/-! ### Reads -/

/-- The answer to a host read of the window while `BUSY = 0` (spec R54, R56, R200): `arrive_read_cases` ties it to the
model. -/
def State.idleAnswer (s : State) (addr bits : Nat) : Option Response :=
  if s.rst then none
  else if permitted (addr - s.cfg.smdcBase) bits then
    some (.readData (s.windowValue (windowReg s.cfg (addr - s.cfg.smdcBase))))
  else some (.busError 0)

/-- What an idle read answers is read from the block alone: not from an earlier answer, the count of drawn free values
or what is still to arrive. -/
theorem State.idleAnswer_congr (s : State) (as : List Arrival) (r : Option Response) (k addr bits : Nat) :
    State.idleAnswer { s with arrivals := as, resp := r, draws := k } addr bits = s.idleAnswer addr bits := by
  have value (w : WindowReg) :
      State.windowValue { s with arrivals := as, resp := r, draws := k } w = s.windowValue w := by
    cases w <;> rfl
  simp only [State.idleAnswer, value]

/-- All a read arrival of any width can do (spec R54, R56, R206): an answer, of the block's registers while idle, and
the count of drawn free values, which only a busy read moves. -/
theorem arrive_read_cases {s t : State} {addr bits : Nat} (h : arrive (.read addr bits) s = .next t) :
    ∃ r k, t = { s with resp := r, draws := k } ∧ (s.busy = false → r = s.idleAnswer addr bits ∧ k = s.draws) := by
  rcases arrive_cases h with ⟨⟨⟩, _⟩ | ⟨_, ⟨⟩, _⟩ | ⟨_, _, ⟨⟩, ⟨hr, e⟩ | ⟨hr, e⟩⟩ | ⟨_, _, _, ⟨⟩, _⟩
  · cases e
    exact ⟨none, s.draws, rfl, fun _ => ⟨by simp [State.idleAnswer, hr], rfl⟩⟩
  · rcases hostRead_cases e with ⟨_, e⟩ | ⟨off, ho, answered⟩
    · cases e
    · have hoff : addr - s.cfg.smdcBase = off := by rw [windowOffset_eq_some ho]; omega
      rcases answered with ⟨hp, e⟩ | ⟨hp, e⟩ <;> cases e
      · rcases s.readRegister_cases (windowReg s.cfg off) with ⟨hb, _, e⟩ | ⟨_, e⟩ <;> rw [e]
        · exact ⟨_, _, rfl, fun idle => by rw [hb] at idle; cases idle⟩
        · exact ⟨_, s.draws, rfl, fun _ => ⟨by simp [State.idleAnswer, hr, hoff, hp], rfl⟩⟩
      · exact ⟨_, s.draws, rfl, fun _ => ⟨by simp [State.idleAnswer, hr, hoff, hp], rfl⟩⟩

/-- Settles O47: the repeated read meets the same block, so its answer is the same. -/
theorem readsHaveNoSideEffect : Obligations.ReadsHaveNoSideEffect := by
  intro s t addr bits hup h
  rw [step_eq_arrive, hup] at h
  obtain ⟨r, k, rfl, idle⟩ := arrive_read_cases h
  refine ⟨rfl, fun hb => ?_⟩
  obtain ⟨hr, hk⟩ := idle hb
  refine ⟨hk, fun u hup' h' => ?_⟩
  rw [step_eq_arrive, hup'] at h'
  obtain ⟨r', k', rfl, idle'⟩ := arrive_read_cases h'
  calc r' = State.idleAnswer (State.taken { s.taken with resp := r, draws := k }) addr bits := (idle' hb).left
    _ = s.idleAnswer addr bits := s.idleAnswer_congr s.arrivals.tail.tail r k addr bits
    _ = s.taken.idleAnswer addr bits := (s.idleAnswer_congr s.arrivals.tail s.resp s.draws addr bits).symm
    _ = r := hr.symm

end Sys2Proof.Machine
end

section
/-! The statements of the encoding family: decoding and encoding are inverse (O1, O2), which words decode (O3), the
assembly examples (O4), and the illegal words (O6). -/

namespace Sys2Proof.Machine

open Sys2Proof

/-! ### The fields of a word -/

/-- A field is read back at the position where it was put. -/
theorem extractLsb'_placed_same {width : Nat} (v : BitVec width) {p : Nat} (h : p + width ≤ 32) :
    (placed width v p).extractLsb' p width = v := by
  ext k hk
  have bit : p + k < 32 ∧ k < 32 := by omega
  simp [placed, bit, BitVec.getLsbD_eq_getElem hk]

/-- A field shows in no bits beside its own. -/
theorem extractLsb'_placed_disjoint {width : Nat} (v : BitVec width) {p lo len : Nat}
    (h : p + width ≤ lo ∨ lo + len ≤ p) : (placed width v p).extractLsb' lo len = 0 := by
  ext k hk
  rcases h with below | above
  · have bit : v.getLsbD (lo + k - p) = false := BitVec.getLsbD_of_ge _ _ (by omega)
    simp [placed, bit]
  · have bit : lo + k < p := by omega
    simp [placed, bit]

/-- A field put back at its position is the word's bits there. -/
theorem placed_extractLsb' (c : CmdWord) (p width : Nat) :
    placed width (c.extractLsb' p width) p = c &&& placed width (BitVec.allOnes width) p := by
  ext k hk
  by_cases below : k < p
  · simp [placed, below]
  · have bit : p + (k - p) = k := by omega
    simp [placed, below, bit, BitVec.getLsbD_eq_getElem hk, Bool.and_comm]

theorem placedReg_rdField (c : CmdWord) : placedReg (rdField c) 20 = c &&& 0x00700000 :=
  placed_extractLsb' c 20 3

theorem placedReg_rs1Field (c : CmdWord) : placedReg (rs1Field c) 16 = c &&& 0x00070000 :=
  placed_extractLsb' c 16 3

theorem placedReg_rs2Field (c : CmdWord) : placedReg (rs2Field c) 12 = c &&& 0x00007000 :=
  placed_extractLsb' c 12 3

theorem placed_immField (c : CmdWord) : placed 16 (immField c) 0 = c &&& 0x0000FFFF :=
  placed_extractLsb' c 0 16

theorem opField_toNat (c : CmdWord) : (opField c).toNat = c.toNat / 2 ^ 24 := by
  rw [opField, BitVec.extractLsb'_toNat, Nat.shiftRight_eq_div_pow]
  omega

theorem rdField_val (c : CmdWord) : (rdField c).val = c.toNat / 2 ^ 20 % 8 := by
  rw [rdField, BitVec.val_toFin, BitVec.extractLsb'_toNat, Nat.shiftRight_eq_div_pow]

/-- The opcode field of an encoded command is its opcode (spec R80). -/
theorem opField_encode (i : Instr) : opField (encode i) = i.opcode := by
  cases i with
  | nop => exact Laws.EncodesOpcode.nop
  | setn imm => exact Laws.EncodesOpcode.setn imm
  | clr rd => exact Laws.EncodesOpcode.clr rd
  | mov rd rs1 => exact Laws.EncodesOpcode.mov rd rs1
  | ldl rd imm => exact Laws.EncodesOpcode.ldl rd imm
  | pow2 rd imm => exact Laws.EncodesOpcode.pow2 rd imm
  | pow2n rd imm => exact Laws.EncodesOpcode.pow2n rd imm
  | div rd rs1 rs2 => exact Laws.EncodesOpcode.div rd rs1 rs2
  | mul rd rs1 rs2 => exact Laws.EncodesOpcode.mul rd rs1 rs2
  | sub rd rs1 rs2 => exact Laws.EncodesOpcode.sub rd rs1 rs2
  | limb rs1 imm => exact Laws.EncodesOpcode.limb rs1 imm
  | decomp rs1 => exact Laws.EncodesOpcode.decomp rs1
  | barrett rd rs1 => exact Laws.EncodesOpcode.barrett rd rs1

/-! ### The rows of the opcode map -/

/-- A row's pattern sets no bit outside its mask, and the mask holds the whole opcode field (spec R75). -/
theorem opcodeRows_mask : ∀ row ∈ opcodeRows,
    row.pattern &&& row.mask = row.pattern ∧ opField row.mask = BitVec.allOnes 8 := by decide

theorem opcodeRows_opcodes_nodup : (opcodeRows.map fun row => opField row.pattern).Nodup := by decide

/-- No two rows share an opcode (spec R75). -/
theorem opcodeRows_unique {row row' : OpcodeRow} (h : row ∈ opcodeRows) (h' : row' ∈ opcodeRows)
    (e : opField row.pattern = opField row'.pattern) : row = row' :=
  List.inj_on_of_nodup_map opcodeRows_opcodes_nodup h h' e

/-- A word selects no row but that of its opcode field. -/
theorem opField_of_selects {c : CmdWord} {row : OpcodeRow} (h : row ∈ opcodeRows)
    (hc : c &&& row.mask = row.pattern) : opField c = opField row.pattern := by
  have full := (opcodeRows_mask row h).right
  calc opField c = opField c &&& opField row.mask := by rw [full, BitVec.and_allOnes]
    _ = opField (c &&& row.mask) := BitVec.extractLsb'_and.symm
    _ = opField row.pattern := by rw [hc]

theorem selectRow_eq_find? (c : CmdWord) (rows : List OpcodeRow) :
    selectRow c rows = rows.find? fun row => c &&& row.mask = row.pattern := by
  induction rows with
  | nil => rfl
  | cons row rest ih =>
    rw [selectRow, List.find?_cons, ih]
    by_cases h : c &&& row.mask = row.pattern <;> simp [h]

/-- The row that a word selects is any row it matches (spec R76). -/
theorem selectRow_eq_some_iff {c : CmdWord} {row : OpcodeRow} :
    selectRow c opcodeRows = some row ↔ row ∈ opcodeRows ∧ c &&& row.mask = row.pattern := by
  have sound {row' : OpcodeRow} (h : selectRow c opcodeRows = some row') :
      row' ∈ opcodeRows ∧ c &&& row'.mask = row'.pattern := by
    rw [selectRow_eq_find?] at h
    exact ⟨List.mem_of_find?_eq_some h, by simpa using List.find?_some h⟩
  refine ⟨sound, fun ⟨hm, hc⟩ => ?_⟩
  cases found : selectRow c opcodeRows with
  | none =>
    rw [selectRow_eq_find?, List.find?_eq_none] at found
    exact absurd (decide_eq_true hc) (found row hm)
  | some row' =>
    obtain ⟨hm', hc'⟩ := sound found
    have same : row' = row := opcodeRows_unique hm' hm
      ((opField_of_selects hm' hc').symm.trans (opField_of_selects hm hc))
    rw [same]

/-- The opcode of what a row builds stands in the row's pattern (spec R75). -/
theorem placed_opcode_build (c : CmdWord) : ∀ row ∈ opcodeRows, placed 8 (row.build c).opcode 24 = row.pattern := by
  simp [opcodeRows, Instr.opcode, placed]

/-- The fields that a row reads, put back in their places, are the word's bits outside the row's mask (spec R73). -/
theorem operandBits_build (c : CmdWord) : ∀ row ∈ opcodeRows, (row.build c).operandBits = c &&& ~~~row.mask := by
  simp only [opcodeRows, List.forall_mem_cons, Instr.operandBits, placedReg_rdField, placedReg_rs1Field,
    placedReg_rs2Field, placed_immField, ← BitVec.and_or_distrib_left]
  simp

/-- Only BARRETT's row reads a command that is not well formed (spec R76). -/
theorem wellFormed_build (c : CmdWord) : ∀ row ∈ opcodeRows,
    ((row.build c).wellFormed = true ↔ ¬(row.pattern = 0x18000000 ∧ 5 < (rdField c).val)) := by
  simp [opcodeRows, Instr.wellFormed]

/-- A word selects a row exactly when it is the encoding of what the row reads from it. -/
theorem selects_iff_encode_build {row : OpcodeRow} (h : row ∈ opcodeRows) (c : CmdWord) :
    c &&& row.mask = row.pattern ↔ encode (row.build c) = c := by
  rw [encode, placed_opcode_build c row h, operandBits_build c row h]
  have within := (opcodeRows_mask row h).left
  refine ⟨fun hc => ?_, fun hc => ?_⟩
  · rw [← hc, ← BitVec.and_or_distrib_left, BitVec.or_not_self, BitVec.and_allOnes]
  · rw [← hc, BitVec.and_or_distrib_right, within, BitVec.and_assoc, BitVec.and_comm (~~~row.mask)]
    simp

/-- The row of a command reads the operands of its encoding back (spec R71, R72): each reader finds its own field, and
the opcode and the other fields lie beside it. -/
theorem exists_row_build_encode (i : Instr) : ∃ row ∈ opcodeRows, row.build (encode i) = i := by
  cases i
  all_goals
    simp (disch := decide) only [opcodeRows, List.mem_cons, List.not_mem_nil, or_false, exists_eq_or_imp,
      exists_eq_left, encode, Instr.operandBits, placedReg, rdField, rs1Field, rs2Field, immField,
      BitVec.extractLsb'_or, extractLsb'_placed_same, extractLsb'_placed_disjoint]
    simp

/-! ### Decoding -/

/-- A word decodes to what a row that it selects reads from it, where that is well formed (spec R76). -/
theorem decode_eq_ok_iff_row {c : CmdWord} {i : Instr} : decode c = .ok i ↔
    ∃ row ∈ opcodeRows, c &&& row.mask = row.pattern ∧ row.build c = i ∧ i.wellFormed = true := by
  constructor
  · intro h
    rw [decode] at h
    split at h
    · split at h <;> cases h
    · next row found =>
      obtain ⟨hm, hc⟩ := selectRow_eq_some_iff.mp found
      split at h <;> cases h
      next wf => exact ⟨row, hm, hc, rfl, wf⟩
  · rintro ⟨row, hm, hc, rfl, wf⟩
    simp [decode, selectRow_eq_some_iff.mpr ⟨hm, hc⟩, wf]

/-- The words that decode to a command: its encoding alone, and none where the command is not well formed. -/
theorem decode_eq_ok_iff {c : CmdWord} {i : Instr} : decode c = .ok i ↔ i.wellFormed = true ∧ encode i = c := by
  rw [decode_eq_ok_iff_row]
  constructor
  · rintro ⟨row, hm, hc, rfl, wf⟩
    exact ⟨wf, (selects_iff_encode_build hm c).mp hc⟩
  · rintro ⟨wf, rfl⟩
    obtain ⟨row, hm, hb⟩ := exists_row_build_encode i
    exact ⟨row, hm, (selects_iff_encode_build hm _).mpr (congrArg encode hb), hb, wf⟩

/-- Settles O1: an encoding is a word that decodes to its command. -/
theorem decodeOfEncode : Obligations.DecodeOfEncode :=
  fun _ wf => decode_eq_ok_iff.mpr ⟨wf, rfl⟩

/-- Settles O2: no other word decodes to the command. -/
theorem encodeOfDecode : Obligations.EncodeOfDecode :=
  fun _ _ h => decode_eq_ok_iff.mp h

/-- Settles O4: each line and each encoding is evaluated; that the word decodes follows. -/
theorem specExamplesDecode : Obligations.SpecExamplesDecode := by
  intro e he
  obtain ⟨assembled, encoded, wf⟩ :
      assembleWord e.1 = .ok e.2.1 ∧ encode e.2.2 = e.2.1 ∧ e.2.2.wellFormed = true := by
    revert e
    decide
  exact ⟨assembled, decode_eq_ok_iff.mpr ⟨wf, encoded⟩, encoded⟩

/-! ### Legal words -/

/-- The statements' opcode map holds the model's rows. -/
theorem opcodeMap_eq_map :
    opcodeMap = opcodeRows.map fun row => (opField row.pattern, row.pattern, row.mask) := by decide

/-- A word that selects a row is a BARRETT word exactly when the row is BARRETT's. -/
theorem barrett_iff_of_selects {c : CmdWord} {row : OpcodeRow} (h : row ∈ opcodeRows)
    (hc : c &&& row.mask = row.pattern) : c &&& 0xFF88FFFF = 0x18000000 ↔ row.pattern = 0x18000000 := by
  constructor
  · intro hb
    have listed : opcodeRows[12] ∈ opcodeRows := List.getElem_mem _
    have same : row = opcodeRows[12] := opcodeRows_unique h listed
      ((opField_of_selects h hc).symm.trans (opField_of_selects listed hb))
    rw [same]
    rfl
  · intro hp
    have mask : ∀ row ∈ opcodeRows, row.pattern = 0x18000000 → row.mask = 0xFF88FFFF := by decide
    rw [← hp, ← mask row h hp, hc]

/-- The legal words are those from which a row reads a well-formed command. -/
theorem legalWord_iff_exists_row {c : CmdWord} :
    LegalWord c ↔ ∃ row ∈ opcodeRows, c &&& row.mask = row.pattern ∧ (row.build c).wellFormed = true := by
  have row_of_map : (∃ row ∈ opcodeMap, c &&& row.2.2 = row.2.1) ↔
      ∃ row ∈ opcodeRows, c &&& row.mask = row.pattern := by
    simp [opcodeMap_eq_map]
  rw [LegalWord, row_of_map, ← rdField_val]
  constructor
  · rintro ⟨⟨row, hm, hc⟩, hb⟩
    rw [barrett_iff_of_selects hm hc] at hb
    exact ⟨row, hm, hc, (wellFormed_build c row hm).mpr hb⟩
  · rintro ⟨row, hm, hc, wf⟩
    rw [barrett_iff_of_selects hm hc]
    exact ⟨⟨row, hm, hc⟩, (wellFormed_build c row hm).mp wf⟩

theorem decodes_iff_legalWord {c : CmdWord} : (∃ i, decode c = .ok i) ↔ LegalWord c := by
  simp only [decode_eq_ok_iff_row, legalWord_iff_exists_row]
  constructor
  · rintro ⟨_, row, hm, hc, rfl, wf⟩
    exact ⟨row, hm, hc, wf⟩
  · rintro ⟨row, hm, hc, wf⟩
    exact ⟨_, row, hm, hc, rfl, wf⟩

/-- Settles O3: the opcode is the word's field because the word is the command's encoding. -/
theorem legalWordsDecode : Obligations.LegalWordsDecode := by
  refine fun c => ⟨decodes_iff_legalWord, fun i h => ?_⟩
  obtain ⟨_, rfl⟩ := decode_eq_ok_iff.mp h
  rw [← opField_toNat, opField_encode]

/-! ### Illegal words -/

/-- A legal word has the opcode of some row, and matches every row of its opcode (spec R75). -/
theorem LegalWord.matches_row {c : CmdWord} (h : LegalWord c) :
    (∃ row ∈ opcodeMap, row.1.toNat = c.toNat / 2 ^ 24) ∧
      ∀ row ∈ opcodeMap, row.1.toNat = c.toNat / 2 ^ 24 → c &&& row.2.2 = row.2.1 := by
  obtain ⟨row, hm, hc, _⟩ := legalWord_iff_exists_row.mp h
  have field := opField_of_selects hm hc
  simp only [opcodeMap_eq_map, ← opField_toNat, BitVec.toNat_inj]
  refine ⟨⟨_, List.mem_map_of_mem hm, field.symm⟩, List.forall_mem_map.mpr fun row' hm' e => ?_⟩
  rw [opcodeRows_unique hm' hm (e.trans field), hc]

/-- Each kind of illegal word of spec R77 is no legal word. -/
theorem not_legalWord {c : CmdWord}
    (h : (∀ row ∈ opcodeMap, row.1.toNat ≠ c.toNat / 2 ^ 24) ∨
      (∃ row ∈ opcodeMap, row.1.toNat = c.toNat / 2 ^ 24 ∧ c &&& row.2.2 ≠ row.2.1) ∨
      (c.toNat / 2 ^ 24 = 0x18 ∧ 5 < c.toNat / 2 ^ 20 % 8)) : ¬LegalWord c := by
  intro legal
  obtain ⟨⟨row, hm, hrow⟩, hall⟩ := legal.matches_row
  rcases h with reserved | ⟨row', hm', hrow', broken⟩ | ⟨barrett, hrd⟩
  · exact reserved row hm hrow
  · exact broken (hall row' hm' hrow')
  · have listed : (0x18, 0x18000000, 0xFF88FFFF) ∈ opcodeMap := by decide
    exact legal.right ⟨hall _ listed barrett.symm, hrd⟩

/-- The opcodes of no row (spec R77). -/
theorem reservedOpcode_iff (op : BitVec 8) : (∀ row ∈ opcodeMap, row.1 ≠ op) ↔
    (0x05 ≤ op.toNat ∧ op.toNat ≤ 0x07) ∨ (0x0D ≤ op.toNat ∧ op.toNat ≤ 0x0F) ∨
      (0x12 ≤ op.toNat ∧ op.toNat ≤ 0x17) ∨ 0x19 ≤ op.toNat := by
  simp only [opcodeMap, List.forall_mem_cons, List.not_mem_nil, false_implies, implies_true, and_true,
    ← BitVec.toNat_inj, ne_eq, BitVec.ofNat_eq_ofNat, BitVec.toNat_ofNat]
  omega

/-- Settles O6: a word of each kind is no legal word, so it decodes to nothing; NOP's one word is its encoding. -/
theorem illegalWordsRaise : Obligations.IllegalWordsRaise := by
  refine ⟨fun c h => ?_, reservedOpcode_iff, fun c => ?_⟩
  · have undecoded (i) : decode c ≠ .ok i := fun hd => not_legalWord h (decodes_iff_legalWord.mp ⟨i, hd⟩)
    refine ⟨undecoded, fun s hs hcur => ?_⟩
    subst hcur
    exact step_illegal hs undecoded
  · have encoding : encode .nop = 0 := by decide
    rw [decode_eq_ok_iff, encoding]
    exact ⟨fun ⟨_, h⟩ => h.symm, fun h => ⟨rfl, h.symm⟩⟩

end Sys2Proof.Machine
end

section
/-! The statements of the big-integer engine: its six commands (O13 to O18) and the laws of its arithmetic (O24 to
O28). -/

namespace Sys2Proof.Machine

open Sys2Proof

/-! ### The fields of a word as the statements write them -/

/-- The three bits of a register field are the field modulo 8 (spec R7, R71). -/
theorem toFin_extractLsb'_eq_regAt (c : CmdWord) (lo : Nat) : (c.extractLsb' lo 3).toFin = regAt c lo := by
  apply Fin.ext
  rw [BitVec.val_toFin, BitVec.extractLsb'_toNat, Nat.shiftRight_eq_div_pow]
  rfl

theorem rdField_eq_regAt (c : CmdWord) : rdField c = regAt c 20 := toFin_extractLsb'_eq_regAt c 20

theorem rs1Field_eq_regAt (c : CmdWord) : rs1Field c = regAt c 16 := toFin_extractLsb'_eq_regAt c 16

theorem rs2Field_eq_regAt (c : CmdWord) : rs2Field c = regAt c 12 := toFin_extractLsb'_eq_regAt c 12

theorem immField_eq_immAt (c : CmdWord) : immField c = immAt c := by
  apply BitVec.eq_of_toNat_eq
  rw [immField, immAt, BitVec.extractLsb'_toNat, BitVec.toNat_ofNat, Nat.shiftRight_zero]

/-- A word that selects a row decodes to the command the row reads from it, where that is well formed (spec R76). -/
theorem decode_eq_build {c : CmdWord} {row : OpcodeRow} (hm : row ∈ opcodeRows) (hc : c &&& row.mask = row.pattern)
    (wf : (row.build c).wellFormed = true) : decode c = .ok (row.build c) :=
  decode_eq_ok_iff_row.mpr ⟨row, hm, hc, rfl, wf⟩

/-! ### How a command ends -/

/-- A command that ends with one register written has written that register alone. -/
theorem exists_wroteX {i : Instr} {s : State} {d : XIdx} {v : Nat} (h : exec i s = .next (s.setX d v).complete) :
    ∃ t, exec i s = .next t ∧ WroteX s t d v :=
  ⟨_, h, fun r => s.x_setX d r v, rfl⟩

theorem WroteX.x_same {s t : State} {d : XIdx} {v : Nat} (h : WroteX s t d v) : t.x d = v :=
  (h.left d).trans (if_pos rfl)

theorem WroteX.x_ne {s t : State} {d r : XIdx} {v : Nat} (h : WroteX s t d v) (hr : r ≠ d) : t.x r = s.x r :=
  (h.left r).trans (if_neg hr)

theorem WroteX.frame {s t : State} {d : XIdx} {v : Nat} (h : WroteX s t d v) :
    t.cfg = s.cfg ∧ t.err = s.err ∧ t.errcmd = s.errcmd :=
  ⟨(congrArg State.cfg h.right :), (congrArg State.err h.right :), (congrArg State.errcmd h.right :)⟩

/-- In a sequence the next command starts where the last one ended. -/
theorem execAll_cons {i : Instr} {s t : State} (rest : List Instr) (h : exec i s = .next t) :
    execAll (i :: rest) s = execAll rest t := by
  rw [execAll, h]

/-! ### Each command of the engine, by its error condition -/

section
variable {s : State} (d a b p : XIdx) {e m : BitVec 16}

theorem exec_pow2_of_lt_cap (h : e.toNat < s.cfg.cap) :
    exec (.pow2 d e) s = .next (s.setX d (2 ^ e.toNat)).complete :=
  ((execPow2_cases rfl).resolve_left fun ⟨beyond, _⟩ => beyond.not_gt h).right

theorem exec_pow2_of_cap_le (h : s.cfg.cap ≤ e.toNat) : exec (.pow2 d e) s = .next (Errored s 0x05) :=
  ((execPow2_cases rfl).resolve_right fun ⟨below, _⟩ => h.not_gt below).right

theorem exec_pow2n_of_n_eq_zero (h : s.n.toNat = 0) : exec (.pow2n d m) s = .next (Errored s 0x02) := by
  rcases execPow2n_cases (rfl : execPow2n d m s = _) with ⟨_, eq⟩ | ⟨set, _⟩ | ⟨set, _⟩
  · exact eq
  · exact absurd (s.n_eq_zero_iff.mpr h) set
  · exact absurd (s.n_eq_zero_iff.mpr h) set

theorem exec_pow2n_of_lt_cap (hn : s.n.toNat ≠ 0) (h : 64 * s.n.toNat * m.toNat < s.cfg.cap) :
    exec (.pow2n d m) s = .next (s.setX d (2 ^ (64 * s.n.toNat * m.toNat))).complete := by
  rcases execPow2n_cases (rfl : execPow2n d m s = _) with ⟨unset, _⟩ | ⟨_, beyond, _⟩ | ⟨_, _, eq⟩
  · exact absurd (s.n_eq_zero_iff.mp unset) hn
  · exact absurd h beyond.not_gt
  · exact eq

theorem exec_pow2n_of_cap_le (hn : s.n.toNat ≠ 0) (h : s.cfg.cap ≤ 64 * s.n.toNat * m.toNat) :
    exec (.pow2n d m) s = .next (Errored s 0x05) := by
  rcases execPow2n_cases (rfl : execPow2n d m s = _) with ⟨unset, _⟩ | ⟨_, _, eq⟩ | ⟨_, below, _⟩
  · exact absurd (s.n_eq_zero_iff.mp unset) hn
  · exact eq
  · exact absurd below h.not_gt

theorem exec_div_of_ne_zero (h : s.x b ≠ 0) : exec (.div d a b) s = .next (s.setX d (s.x a / s.x b)).complete :=
  ((execDiv_cases rfl).resolve_left fun ⟨zero, _⟩ => h zero).right

theorem exec_div_of_eq_zero (h : s.x b = 0) : exec (.div d a b) s = .next (Errored s 0x03) :=
  ((execDiv_cases rfl).resolve_right fun ⟨nonzero, _⟩ => nonzero h).right

theorem exec_mul_of_lt (h : s.x a * s.x b < 2 ^ s.cfg.cap) :
    exec (.mul d a b) s = .next (s.setX d (s.x a * s.x b)).complete :=
  ((execMul_cases rfl).resolve_left fun ⟨beyond, _⟩ => beyond.not_gt h).right

theorem exec_mul_of_le (h : 2 ^ s.cfg.cap ≤ s.x a * s.x b) : exec (.mul d a b) s = .next (Errored s 0x05) :=
  ((execMul_cases rfl).resolve_right fun ⟨below, _⟩ => h.not_gt below).right

theorem exec_sub_of_le (h : s.x b ≤ s.x a) : exec (.sub d a b) s = .next (s.setX d (s.x a - s.x b)).complete :=
  ((execSub_cases rfl).resolve_left fun ⟨smaller, _⟩ => h.not_gt smaller).right

theorem exec_sub_of_lt (h : s.x a < s.x b) : exec (.sub d a b) s = .next (Errored s 0x04) :=
  ((execSub_cases rfl).resolve_right fun ⟨enough, _⟩ => enough.not_gt h).right

/-- LIMB has no error condition (spec R110). -/
theorem exec_limb (s : State) (j : BitVec 16) :
    exec (.limb p j) s = .next { Completed s with dout := limb (s.x p) j.toNat } := rfl

end

/-! ### The commands, one by one -/

/-- Settles O13: the capacity of the statement is `CAP` (spec R5) written out. -/
theorem pow2Command : Obligations.Pow2Command := by
  refine ⟨fun c hc => ?_, fun d e s he => ?_, fun d e s he => exec_pow2_of_cap_le d he⟩
  · rw [← rdField_eq_regAt, ← immField_eq_immAt]
    exact decode_eq_build (row := opcodeRows[5]) (List.getElem_mem _) hc rfl
  · exact exists_wroteX (exec_pow2_of_lt_cap d he)

/-- Settles O14: with a legal `N` the multipliers up to 2 stay within twice `N` limbs, below the capacity. -/
theorem pow2nCommand : Obligations.Pow2nCommand := by
  refine ⟨fun c hc => ?_, fun d m s hn hm => ?_, fun d m s hn => exec_pow2n_of_n_eq_zero d hn,
    fun d m s hn hm => exec_pow2n_of_cap_le d hn hm⟩
  · rw [← rdField_eq_regAt, ← immField_eq_immAt]
    exact decode_eq_build (row := opcodeRows[6]) (List.getElem_mem _) hc rfl
  · have fits : 64 * s.n.toNat * m.toNat < s.cfg.cap := by
      rcases hm with below | ⟨legal, small⟩
      · exact below
      · calc 64 * s.n.toNat * m.toNat ≤ 64 * s.n.toNat * 2 := Nat.mul_le_mul_left _ small
          _ = 128 * s.n.toNat := by omega
          _ < s.cfg.cap := State.NLegal.lt_cap legal
    exact exists_wroteX (exec_pow2n_of_lt_cap d hn fits)

/-- Settles O15: the operands are read before the write, so the three registers need not differ. -/
theorem divCommand : Obligations.DivCommand := by
  refine ⟨fun c hc => ?_, fun d a b s hb => ?_, fun d a b s hb => exec_div_of_eq_zero d a b hb⟩
  · rw [← rdField_eq_regAt, ← rs1Field_eq_regAt, ← rs2Field_eq_regAt]
    exact decode_eq_build (row := opcodeRows[7]) (List.getElem_mem _) hc rfl
  · exact exists_wroteX (exec_div_of_ne_zero d a b hb)

/-- Settles O16: the product is bounded as a whole, so none is truncated. -/
theorem mulCommand : Obligations.MulCommand := by
  refine ⟨fun c hc => ?_, fun d a b s h => ?_, fun d a b s h => exec_mul_of_le d a b h⟩
  · rw [← rdField_eq_regAt, ← rs1Field_eq_regAt, ← rs2Field_eq_regAt]
    exact decode_eq_build (row := opcodeRows[8]) (List.getElem_mem _) hc rfl
  · exact exists_wroteX (exec_mul_of_lt d a b h)

/-- Settles O17: the law of R109 reads the difference from the destination as SUB left it. -/
theorem subCommand : Obligations.SubCommand := by
  refine ⟨fun c hc => ?_, fun d a b s h => ?_, fun d a b s h => exec_sub_of_lt d a b h⟩
  · rw [← rdField_eq_regAt, ← rs1Field_eq_regAt, ← rs2Field_eq_regAt]
    exact decode_eq_build (row := opcodeRows[9]) (List.getElem_mem _) hc rfl
  · obtain ⟨t, ends, wrote⟩ := exists_wroteX (exec_sub_of_le d a b h)
    exact ⟨t, ends, wrote, by rw [wrote.x_same, Nat.sub_add_cancel h]⟩

/-- Settles O18: limb `K` and those above lie beyond a register within its capacity. -/
theorem limbCommand : Obligations.LimbCommand := by
  refine ⟨fun c hc => ?_, fun p j s => exec_limb p s j, fun p j s hx hj => ?_⟩
  · rw [← rs1Field_eq_regAt, ← immField_eq_immAt]
    exact decode_eq_build (row := opcodeRows[10]) (List.getElem_mem _) hc rfl
  · have beyond : s.x p < 2 ^ (64 * j.toNat) :=
      (hx p).trans_le (Nat.pow_le_pow_right (by decide) (Nat.mul_le_mul_left 64 hj))
    rw [exec_limb, limb_eq_zero beyond]

/-! ### The laws of the arithmetic -/

/-- The limbs of a power of two (spec R101). -/
theorem limb_two_pow (e j : Nat) :
    limb (2 ^ e) j = if j = e / 64 then BitVec.ofNat 64 (2 ^ (e % 64)) else 0 := by
  rcases lt_or_ge e (64 * j) with above | within
  · rw [limb_eq_zero (Nat.pow_lt_pow_right (by decide) above), if_neg (by omega)]
  · rw [limb, Nat.pow_div within (by decide)]
    by_cases hj : j = e / 64
    · rw [if_pos hj, show e - 64 * j = e % 64 by omega]
    · have low : 2 ^ 64 ∣ 2 ^ (e - 64 * j) := Nat.pow_dvd_pow 2 (by omega)
      rw [if_neg hj]
      exact BitVec.eq_of_toNat_eq ((BitVec.toNat_ofNat _ _).trans (Nat.mod_eq_zero_of_dvd low))

/-- Settles O24: the destination holds `2^e`, whose one set bit lies in limb `e / 64`. -/
theorem powerOfTwoLimbs : Obligations.PowerOfTwoLimbs := by
  intro d e s t he h
  rw [exec_pow2_of_lt_cap d he] at h
  cases h
  rw [State.complete_x, State.x_setX_same]
  refine ⟨?_, fun j hj => ?_⟩
  · rw [limb_two_pow, if_pos rfl]
  · rw [limb_two_pow, if_neg hj]

/-- Settles O25: both commands take the same power, or both find it beyond the capacity. -/
theorem pow2nAgreesWithPow2 : Obligations.Pow2nAgreesWithPow2 := by
  intro d m e s hn he
  have nonzero : s.n.toNat ≠ 0 := Nat.one_le_iff_ne_zero.mp hn
  rcases lt_or_ge e.toNat s.cfg.cap with below | beyond
  · rw [exec_pow2_of_lt_cap d below, exec_pow2n_of_lt_cap d nonzero (he ▸ below), he]
  · rw [exec_pow2_of_cap_le d beyond, exec_pow2n_of_cap_le d nonzero (he ▸ beyond)]

/-- What DIV, MUL and SUB leave where the quotient and the product overwrite neither operand still needed (spec R105):
the product is at most `a`, so it fits and SUB does not borrow. -/
theorem execAll_remainder {s : State} {d c a b : XIdx} (hx : s.XBounded) (hb : s.x b ≠ 0) (hda : d ≠ a)
    (hdb : d ≠ b) (hca : c ≠ a) :
    ∃ t, execAll [.div d a b, .mul c d b, .sub c a c] s = .next t ∧
      t.x c = s.x a % s.x b ∧ t.err = s.err ∧ t.errcmd = s.errcmd := by
  have product : s.x a / s.x b * s.x b ≤ s.x a := Nat.div_mul_le_self _ _
  obtain ⟨t, div, wroteDiv⟩ := exists_wroteX (exec_div_of_ne_zero d a b hb)
  obtain ⟨tcfg, terr, terrcmd⟩ := wroteDiv.frame
  have factors : t.x d * t.x b = s.x a / s.x b * s.x b := by rw [wroteDiv.x_same, wroteDiv.x_ne hdb.symm]
  have fits : t.x d * t.x b < 2 ^ t.cfg.cap := by
    rw [factors, tcfg]
    exact product.trans_lt (hx a)
  obtain ⟨u, mul, wroteMul⟩ := exists_wroteX (exec_mul_of_lt c d b fits)
  obtain ⟨_, uerr, uerrcmd⟩ := wroteMul.frame
  have minuend : u.x a = s.x a := by rw [wroteMul.x_ne hca.symm, wroteDiv.x_ne hda.symm]
  have subtrahend : u.x c = s.x a / s.x b * s.x b := by rw [wroteMul.x_same, factors]
  have noBorrow : u.x c ≤ u.x a := by rwa [minuend, subtrahend]
  obtain ⟨w, sub, wroteSub⟩ := exists_wroteX (exec_sub_of_le c a c noBorrow)
  obtain ⟨_, werr, werrcmd⟩ := wroteSub.frame
  refine ⟨w, ?_, ?_, werr.trans (uerr.trans terr), werrcmd.trans (uerrcmd.trans terrcmd)⟩
  · rw [execAll_cons _ div, execAll_cons _ mul, execAll_cons _ sub, execAll]
  · rw [wroteSub.x_same, minuend, subtrahend, Nat.mod_eq_sub_div_mul]

/-- Settles O26: the bounds determine the floor of the quotient. -/
theorem floorDivisionLaw : Obligations.FloorDivisionLaw := by
  refine ⟨fun d a b s t hb h => ?_, fun d c a b s hx hb hda hdb hca => execAll_remainder hx hb hda hdb hca⟩
  rw [exec_div_of_ne_zero d a b hb] at h
  cases h
  rw [State.complete_x, State.x_setX_same]
  refine ⟨⟨Nat.div_mul_le_self _ _, ?_⟩, fun q lower upper => (Nat.div_eq_of_lt_le lower upper).symm⟩
  exact Nat.lt_mul_of_div_lt (Nat.lt_succ_self _) (Nat.pos_of_ne_zero hb)

theorem multiply_comm (cap a b : Nat) : multiply cap a b = multiply cap b a := by
  rw [multiply, Nat.mul_comm, ← multiply]

/-- MUL has no error cause exactly when the product fits (spec R106, R182). -/
theorem errorCause_mul_eq_zero_iff {d a b : XIdx} {s : State} :
    errorCause (.mul d a b) s = 0 ↔ s.x a * s.x b < 2 ^ s.cfg.cap := by
  simp [errorCause, Config.cap, Config.k]

/-- Settles O27: the operands meet in their product alone, for the result and for the bound. -/
theorem multiplicationLaw : Obligations.MultiplicationLaw := by
  refine fun d a b s => ⟨?_, fun t he h => ?_⟩
  · rw [exec, exec, execMul, execMul, multiply_comm]
  · rw [exec_mul_of_lt d a b (errorCause_mul_eq_zero_iff.mp he)] at h
    cases h
    rw [State.complete_x, State.x_setX_same]

/-- The limbs below `m` reassemble to the value's part below `2^(64m)` (spec R8). -/
theorem sum_limbs_eq_mod (v m : Nat) :
    ((List.range m).map fun j => (limb v j).toNat * 2 ^ (64 * j)).sum = v % 2 ^ (64 * m) := by
  induction m with
  | zero => simp [Nat.mod_one]
  | succ m ih =>
    rw [List.range_succ, List.map_append, List.sum_append, ih, List.map_singleton, List.sum_singleton, limb_toNat,
      Nat.mul_succ, pow_add, Nat.mod_mul, Nat.mul_comm (_ % 2 ^ 64)]

/-- Settles O28: each of the indices is its own immediate. -/
theorem limbRoundTrip : Obligations.LimbRoundTrip := by
  intro p s m hm hv
  refine ⟨fun j => { Completed s with dout := limb (s.x p) j }, fun j hj => ?_, ?_⟩
  · rw [exec_limb, BitVec.toNat_ofNat, Nat.mod_eq_of_lt (by omega)]
  · exact (sum_limbs_eq_mod _ m).trans (Nat.mod_eq_of_lt hv)

end Sys2Proof.Machine
end

section
/-! The statements of the Barrett generator: DECOMP and BARRETT (O19, O20), the arithmetic of the constants (O29 to
O33), BARRETT's primitive expansion (O34), and the limb sequence that DECOMP leaves (O35). -/

namespace Sys2Proof.Machine

open Sys2Proof

/-! ### The constants of `compute` -/

theorem two_pow_128_eq_mul_self (n : Nat) : 2 ^ (128 * n) = 2 ^ (64 * n) * 2 ^ (64 * n) := by
  rw [← pow_add, ← Nat.add_mul]

/-- The proof of R133: of `P = (P / p) * p + P % p`, the first part contributes a multiple of `p` to `P * P`. -/
theorem mul_self_div_eq (P : Nat) {p : Nat} (hp : p ≠ 0) : P * P / p = P * (P / p) + P % p * P / p := by
  calc P * P / p = (p * (P * (P / p)) + P % p * P) / p := by
        congr 1
        nth_rw 1 [← Nat.div_add_mod P p]
        ring
    _ = P * (P / p) + P % p * P / p := Nat.mul_add_div (Nat.pos_of_ne_zero hp) _ _

/-- Step 4's quotient is step 3's, shifted by `n` limbs, and a correction (spec R133). -/
theorem high_eq (n : Nat) {p : Nat} (hp : p ≠ 0) :
    2 ^ (128 * n) / p = 2 ^ (64 * n) * (2 ^ (64 * n) / p) + 2 ^ (64 * n) % p * 2 ^ (64 * n) / p := by
  rw [two_pow_128_eq_mul_self, mul_self_div_eq _ hp]

/-- The guard of step 5 is never true (spec R134). -/
theorem pow_mul_div_le_high (n : Nat) {p : Nat} (hp : p ≠ 0) :
    2 ^ (64 * n) * (2 ^ (64 * n) / p) ≤ 2 ^ (128 * n) / p :=
  (Nat.le_add_right _ _).trans_eq (high_eq n hp).symm

theorem barrettConstants_zero (n : Nat) : barrettConstants n 0 = .error .invalidParameters := rfl

/-- Neither Underflow guard is true, so `compute` ends with the triple of steps 3, 5 and 6 (spec R130, R134). -/
theorem barrettConstants_of_ne_zero (n : Nat) {p : Nat} (hp : p ≠ 0) :
    barrettConstants n p =
      .ok ⟨2 ^ (64 * n) / p, 2 ^ (128 * n) / p - 2 ^ (64 * n) * (2 ^ (64 * n) / p),
        2 ^ (64 * n) - 2 ^ (64 * n) / p * p⟩ := by
  rcases barrettConstants_cases (rfl : barrettConstants n p = _) with ⟨zero, _⟩ | ⟨_, _, guard5 | guard6⟩ | ⟨_, e⟩
  · exact absurd zero hp
  · exact absurd guard5 (pow_mul_div_le_high n hp).not_gt
  · exact absurd guard6 (Nat.div_mul_le_self _ _).not_gt
  · exact e

/-- The triple in closed form (spec R133): quotient and remainder of `2^(64n)`, and the quotient of the remainder. -/
theorem barrettConstants_eq_closedForm (n : Nat) {p : Nat} (hp : p ≠ 0) :
    barrettConstants n p =
      .ok ⟨2 ^ (64 * n) / p, 2 ^ (64 * n) % p * 2 ^ (64 * n) / p, 2 ^ (64 * n) % p⟩ := by
  rw [barrettConstants_of_ne_zero n hp, high_eq n hp, Nat.add_sub_cancel_left, Nat.mod_eq_sub_div_mul]

theorem barrettConstants_ne_underflow (n p : Nat) : barrettConstants n p ≠ .error .underflow := by
  rcases eq_or_ne p 0 with rfl | hp
  · rw [barrettConstants_zero]
    decide
  · rw [barrettConstants_of_ne_zero n hp]
    exact nofun

/-- The quotient reaches `2^(64n)` for the divisor 1 alone (spec R132). -/
theorem two_pow_div_eq_self_iff (e p : Nat) : 2 ^ e / p = 2 ^ e ↔ p = 1 := by
  simp [Nat.div_eq_self]

/-- Settles O29: each intermediate is a quotient of `2^(64n)` or `2^(128n)`, or is bounded through one of them. -/
theorem barrettIntermediateBounds : Obligations.BarrettIntermediateBounds := by
  intro n p hn hp
  have nonzero : p ≠ 0 := Nat.one_le_iff_ne_zero.mp hp
  refine ⟨_, barrettConstants_of_ne_zero n nonzero, Nat.div_le_self _ _, two_pow_div_eq_self_iff _ p,
    Nat.div_mul_le_self _ _, ?_, Nat.div_le_self _ _, fun cfg hcfg => ?_⟩
  · exact (pow_mul_div_le_high n nonzero).trans (Nat.div_le_self _ _)
  · rw [Config.k]
    omega

/-- Settles O33: each row is the closed form at its `p`. -/
theorem barrettBoundaryResults : Obligations.BarrettBoundaryResults := by
  intro n hn
  have closed (p : Nat) (hp : p ≠ 0) := barrettConstants_eq_closedForm n hp
  have even : 2 ∣ 2 ^ (64 * n) := dvd_pow_self 2 (by omega)
  have wide : 2 ^ 64 ≤ 2 ^ (64 * n) := Nat.pow_le_pow_right (by decide) (by omega)
  rw [two_pow_128_eq_mul_self]
  generalize 2 ^ (64 * n) = P at closed even wide ⊢
  have positive : P ≠ 0 := by omega
  have aboveP (p : Nat) (hp : P < p) : barrettConstants n p = .ok ⟨0, P * P / p, P⟩ := by
    rw [closed p (by omega), Nat.div_eq_of_lt hp, Nat.mod_eq_of_lt hp]
  refine ⟨?one, ⟨?two, by omega⟩, ?predecessor, ?power, by omega, ?successor, fun p hp => ⟨aboveP p hp, ?narrow⟩,
    fun p hp => ?beyond⟩
  case one => rw [closed 1 (by decide), Nat.mod_one, Nat.zero_mul, Nat.div_one, Nat.zero_div]
  case two => rw [closed 2 (by decide), Nat.mod_eq_zero_of_dvd even, Nat.zero_mul, Nat.zero_div]
  case predecessor =>
    have quotient : P / (P - 1) = 1 := Nat.div_eq_of_lt_le (by omega) (by omega)
    have remainder : P % (P - 1) = 1 := by
      rw [Nat.mod_eq_sub_div_mul, quotient, Nat.one_mul]
      omega
    rw [closed (P - 1) (by omega), remainder, Nat.one_mul, quotient]
  case power =>
    rw [closed P positive, Nat.mod_self, Nat.zero_mul, Nat.zero_div, Nat.div_self (Nat.pos_of_ne_zero positive)]
  case successor =>
    have quotient : P * P / (P + 1) = P - 1 := by
      obtain ⟨q, rfl⟩ := Nat.exists_eq_add_one_of_ne_zero positive
      rw [Nat.add_sub_cancel]
      exact Nat.div_eq_of_lt_le (by linarith) (by linarith)
    rw [aboveP (P + 1) (Nat.lt_succ_self P), quotient]
  case narrow => exact Nat.div_lt_of_lt_mul (Nat.mul_lt_mul_of_pos_right hp (Nat.pos_of_ne_zero positive))
  case beyond =>
    have large : P < p := (Nat.le_mul_self P).trans_lt hp
    rw [aboveP p large, Nat.div_eq_of_lt hp]

/-! ### BARRETT -/

/-- The three destinations are three registers, also where their numbers wrap. -/
theorem destinations_ne (d : XIdx) : d + 1 ≠ d ∧ d + 2 ≠ d ∧ d + 2 ≠ d + 1 := by
  revert d
  decide

theorem State.setTriple_x_destinations (s : State) (d : XIdx) (c : BarrettConstants) :
    (s.setTriple d c).x d = c.r ∧ (s.setTriple d c).x (d + 1) = c.s ∧ (s.setTriple d c).x (d + 2) = c.t := by
  obtain ⟨hr, ht, hst⟩ := destinations_ne d
  simp only [State.setTriple_x, if_neg hr, if_neg ht.symm, if_neg hst.symm, if_neg hr.symm, if_true, and_self]

section
variable {s : State} {d p : XIdx}

theorem exec_barrett_of_gt (hd : 5 < d.val) : exec (.barrett d p) s = .next (Errored s 0x01) := by
  rcases execBarrett_cases (rfl : execBarrett d p s = _) with ⟨_, e⟩ | ⟨le, _⟩ | ⟨le, _⟩ | ⟨le, _⟩
  · exact e
  all_goals exact absurd hd le.not_gt

theorem exec_barrett_of_eq_zero (hd : d.val ≤ 5) (hz : s.n.toNat = 0 ∨ s.x p = 0) :
    exec (.barrett d p) s = .next (Errored s 0x02) := by
  have invalid (hn : s.n ≠ 0) : barrettConstants s.n.toNat (s.x p) = .error .invalidParameters := by
    rw [hz.resolve_left (mt s.n_eq_zero_iff.mpr hn), barrettConstants_zero]
  rcases execBarrett_cases (rfl : execBarrett d p s = _) with
    ⟨gt, _⟩ | ⟨_, _, e⟩ | ⟨_, hn, _, hc, e⟩ | ⟨_, hn, _, hc, _⟩
  · exact absurd gt hd.not_gt
  · exact e
  · cases hc.symm.trans (invalid hn)
    exact e
  · cases hc.symm.trans (invalid hn)

theorem exec_barrett_of_ok {c : BarrettConstants} (hd : d.val ≤ 5) (hn : s.n.toNat ≠ 0)
    (hc : barrettConstants s.n.toNat (s.x p) = .ok c) :
    exec (.barrett d p) s = .next (s.setTriple d c).complete := by
  rcases execBarrett_cases (rfl : execBarrett d p s = _) with
    ⟨gt, _⟩ | ⟨_, unset, _⟩ | ⟨_, _, _, he, _⟩ | ⟨_, _, _, hk, e⟩
  · exact absurd gt hd.not_gt
  · exact absurd (s.n_eq_zero_iff.mp unset) hn
  · cases hc.symm.trans he
  · cases hc.symm.trans hk
    exact e

/-- What a successful BARRETT leaves in its destinations, in closed form (spec R133). -/
theorem barrett_destinations {t : State} (hd : d.val ≤ 5) (hn : s.n.toNat ≠ 0) (hp : s.x p ≠ 0)
    (h : exec (.barrett d p) s = .next t) :
    t.x d = 2 ^ (64 * s.n.toNat) / s.x p ∧
      t.x (d + 1) = 2 ^ (64 * s.n.toNat) % s.x p * 2 ^ (64 * s.n.toNat) / s.x p ∧
      t.x (d + 2) = 2 ^ (64 * s.n.toNat) % s.x p := by
  rw [exec_barrett_of_ok hd hn (barrettConstants_eq_closedForm _ hp)] at h
  cases h
  exact s.setTriple_x_destinations d _

end

/-- Settles O20: the constants are those of steps 1 to 6, the destinations three registers. -/
theorem barrettCommand : Obligations.BarrettCommand := by
  refine ⟨fun c hc => ⟨fun le => ?_, fun gt i hi => ?_⟩, fun d p s hd hn hp => ?_,
    fun d p s hd => exec_barrett_of_gt hd, fun d p s hd hz => exec_barrett_of_eq_zero hd hz⟩
  · rw [← rdField_val] at le
    rw [← rdField_eq_regAt, ← rs1Field_eq_regAt]
    exact decode_eq_build (row := opcodeRows[12]) (List.getElem_mem _) hc (decide_eq_true le)
  · exact (decodes_iff_legalWord.mp ⟨i, hi⟩).right ⟨hc, gt⟩
  · refine ⟨_, exec_barrett_of_ok hd hn (barrettConstants_of_ne_zero _ hp), fun r => ?_, rfl⟩
    obtain ⟨xr, xs, xt⟩ := s.setTriple_x_destinations d _
    rw [State.complete_x]
    split_ifs with hr hs ht
    · exact hr ▸ xr
    · exact hs ▸ xs
    · exact ht ▸ xt
    · rw [State.setTriple_x, if_neg ht, if_neg hs, if_neg hr]

/-- Settles O30: `t` is a remainder modulo `p`, and the quotients by `p` are bounded by their dividends. -/
theorem barrettPostconditions : Obligations.BarrettPostconditions := by
  intro d p s t hd hn hp h
  have positive : 0 < s.x p := Nat.pos_of_ne_zero hp
  have remainder : 2 ^ (64 * s.n.toNat) % s.x p < s.x p := Nat.mod_lt _ positive
  obtain ⟨xr, xs, xt⟩ := barrett_destinations hd hn hp h
  rw [xr, xs, xt]
  refine ⟨Nat.div_add_mod' _ _, remainder, ?_, Nat.div_le_self _ _, two_pow_div_eq_self_iff _ _⟩
  exact Nat.div_lt_of_lt_mul (Nat.mul_lt_mul_of_pos_right remainder (by positivity))

/-- Settles O31: the two equations are the closed form and the source's proof of it. -/
theorem barrettCorrectionClosedForm : Obligations.BarrettCorrectionClosedForm := by
  intro d p s t hd hn hp h
  obtain ⟨xr, xs, xt⟩ := barrett_destinations hd hn hp h
  rw [xr, xs, xt, high_eq _ hp, Nat.mul_comm (2 ^ (64 * s.n.toNat))]
  exact ⟨rfl, rfl⟩

theorem ErrorCode.eq_underflow_of_code {e : ErrorCode} (h : e.code = 0x04) : e = .underflow := by
  revert h
  cases e <;> decide

/-- Settles O32: BARRETT raises an error of `compute`, which is not Underflow, or one of another code. -/
theorem barrettNeverUnderflows : Obligations.BarrettNeverUnderflows := by
  refine ⟨fun n p _ hp => ?_, fun d p s t h ht => ?_⟩
  · exact ⟨pow_mul_div_le_high n (Nat.one_le_iff_ne_zero.mp hp), Nat.div_mul_le_self _ _,
      barrettConstants_ne_underflow n p⟩
  · have other (e : ErrorCode) (he : e ≠ .underflow) : (s.raise e).complete.err ≠ 0x04 :=
      mt ErrorCode.eq_underflow_of_code he
    rcases execBarrett_cases h with ⟨_, eq⟩ | ⟨_, _, eq⟩ | ⟨_, _, e, hc, eq⟩ | ⟨_, _, c, _, eq⟩ <;> cases eq
    · exact absurd ht (other _ (by decide))
    · exact absurd ht (other _ (by decide))
    · refine absurd ht (other e ?_)
      rintro rfl
      exact barrettConstants_ne_underflow _ _ hc
    · exact ht

/-! ### BARRETT's primitive expansion -/

/-- The registers of the expansion as spec R136 asks for them, but for what it asks of `d + 2`, which no command writes
before the last. -/
structure ExpansionRegisters (d p a b c : XIdx) : Prop where
  scratch : a ≠ b ∧ a ≠ c ∧ b ≠ c
  source : a ≠ p ∧ b ≠ p ∧ c ≠ p ∧ p ≠ d ∧ p ≠ d + 1
  quotient : a ≠ d ∧ b ≠ d ∧ c ≠ d
  correction : a ≠ d + 1 ∧ b ≠ d + 1 ∧ c ≠ d + 1

/-- What a sequence of commands without an error keeps of the state's parameters and error registers. -/
abbrev State.SameErr (s u : State) : Prop := u.cfg = s.cfg ∧ u.err = s.err ∧ u.errcmd = s.errcmd

theorem State.SameErr.trans {s t u : State} (h : s.SameErr t) (h' : t.SameErr u) : s.SameErr u := by
  obtain ⟨cfg, err, errcmd⟩ := h
  obtain ⟨cfg', err', errcmd'⟩ := h'
  exact ⟨cfg'.trans cfg, err'.trans err, errcmd'.trans errcmd⟩

/-- The first two commands of the expansion form `2^(64n)` and `2^(128n)` in the scratch registers. -/
theorem execAll_powers {s : State} {a b : XIdx} (legal : s.NLegal) (hn : s.n.toNat ≠ 0) (hab : a ≠ b) :
    ∃ u, (∀ rest, execAll (.pow2n a 1 :: .pow2n b 2 :: rest) s = execAll rest u) ∧
      u.x a = 2 ^ (64 * s.n.toNat) ∧ u.x b = 2 ^ (128 * s.n.toNat) ∧
      (∀ r, r ≠ a → r ≠ b → u.x r = s.x r) ∧ s.SameErr u := by
  have below := legal.lt_cap
  have once : 64 * s.n.toNat * (1 : BitVec 16).toNat = 64 * s.n.toNat := Nat.mul_one _
  have twice : 64 * s.n.toNat * (2 : BitVec 16).toNat = 128 * s.n.toNat := Nat.mul_right_comm 64 _ 2
  obtain ⟨t, low, wroteLow⟩ := exists_wroteX (exec_pow2n_of_lt_cap (m := 1) a hn (by omega))
  have sameN : t.n = s.n := (congrArg State.n wroteLow.right :)
  have fits : 64 * t.n.toNat * (2 : BitVec 16).toNat < t.cfg.cap := by rwa [sameN, wroteLow.frame.left, twice]
  obtain ⟨u, high, wroteHigh⟩ := exists_wroteX (exec_pow2n_of_lt_cap b (by rwa [sameN]) fits)
  refine ⟨u, fun rest => ?_, ?_, ?_, fun r hra hrb => ?_, State.SameErr.trans wroteLow.frame wroteHigh.frame⟩
  · rw [execAll_cons _ low, execAll_cons _ high]
  · rw [wroteHigh.x_ne hab, wroteLow.x_same, once]
  · rw [wroteHigh.x_same, sameN, twice]
  · rw [wroteHigh.x_ne hrb, wroteLow.x_ne hra]

/-- A MUL into `c` and a SUB of the product from a register that is no smaller: the product fits, and SUB does not
borrow. -/
theorem execAll_mul_sub {s : State} {c e m x y : XIdx} (hmc : m ≠ c) (fits : s.x m < 2 ^ s.cfg.cap)
    (h : s.x x * s.x y ≤ s.x m) :
    ∃ u, (∀ rest, execAll (.mul c x y :: .sub e m c :: rest) s = execAll rest u) ∧
      u.x e = s.x m - s.x x * s.x y ∧ (∀ r, r ≠ c → r ≠ e → u.x r = s.x r) ∧ s.SameErr u := by
  obtain ⟨t, mul, wroteMul⟩ := exists_wroteX (exec_mul_of_lt c x y (h.trans_lt fits))
  have minuend : t.x m = s.x m := wroteMul.x_ne hmc
  have subtrahend : t.x c = s.x x * s.x y := wroteMul.x_same
  obtain ⟨u, sub, wroteSub⟩ := exists_wroteX (exec_sub_of_le e m c (by rwa [minuend, subtrahend]))
  refine ⟨u, fun rest => ?_, ?_, fun r hrc hre => ?_, State.SameErr.trans wroteMul.frame wroteSub.frame⟩
  · rw [execAll_cons _ mul, execAll_cons _ sub]
  · rw [wroteSub.x_same, minuend, subtrahend]
  · rw [wroteSub.x_ne hre, wroteMul.x_ne hrc]

section
variable {s : State} {d p a b c : XIdx} (regs : ExpansionRegisters d p a b c)
include regs

/-- The two DIVs form `r` and step 4's quotient, and leave the powers' register and the source. -/
theorem execAll_quotients (hp : s.x p ≠ 0) :
    ∃ u, (∀ rest, execAll (.div d a p :: .div b b p :: rest) s = execAll rest u) ∧
      u.x d = s.x a / s.x p ∧ u.x b = s.x b / s.x p ∧ u.x a = s.x a ∧ u.x p = s.x p ∧ s.SameErr u := by
  obtain ⟨hab, _, _⟩ := regs.scratch
  obtain ⟨hap, hbp, _, hpd, _⟩ := regs.source
  obtain ⟨had, hbd, _⟩ := regs.quotient
  obtain ⟨t, div, wroteR⟩ := exists_wroteX (exec_div_of_ne_zero d a p hp)
  have source : t.x p = s.x p := wroteR.x_ne hpd
  obtain ⟨u, div', wroteHigh⟩ := exists_wroteX (exec_div_of_ne_zero b b p (source ▸ hp))
  refine ⟨u, fun rest => ?_, ?_, ?_, ?_, ?_, State.SameErr.trans wroteR.frame wroteHigh.frame⟩
  · rw [execAll_cons _ div, execAll_cons _ div']
  · rw [wroteHigh.x_ne hbd.symm, wroteR.x_same]
  · rw [wroteHigh.x_same, source, wroteR.x_ne hbd]
  · rw [wroteHigh.x_ne hab, wroteR.x_ne had]
  · rw [wroteHigh.x_ne hbp.symm, source]

/-- The whole expansion leaves the constants of steps 3, 5 and 6 (spec R136); the bounds of R131 keep each command from
its error. -/
theorem execAll_barrettExpansion (legal : s.NLegal) (hn : s.n.toNat ≠ 0) (hp : s.x p ≠ 0) :
    ∃ u, execAll (barrettExpansion d p a b c) s = .next u ∧
      u.x d = 2 ^ (64 * s.n.toNat) / s.x p ∧
      u.x (d + 1) = 2 ^ (128 * s.n.toNat) / s.x p - 2 ^ (64 * s.n.toNat) * (2 ^ (64 * s.n.toNat) / s.x p) ∧
      u.x (d + 2) = 2 ^ (64 * s.n.toNat) - 2 ^ (64 * s.n.toNat) / s.x p * s.x p ∧ s.SameErr u := by
  obtain ⟨hab, hac, hbc⟩ := regs.scratch
  obtain ⟨hap, hbp, hcp, hpd, hpd1⟩ := regs.source
  obtain ⟨had, hbd, hcd⟩ := regs.quotient
  obtain ⟨had1, hbd1, hcd1⟩ := regs.correction
  obtain ⟨hd1, hd2, hd12⟩ := destinations_ne d
  have wide : 2 ^ (128 * s.n.toNat) < 2 ^ s.cfg.cap := Nat.pow_lt_pow_right (by decide) legal.lt_cap
  obtain ⟨s₁, powers, a₁, b₁, keeps₁, same₁⟩ := execAll_powers legal hn hab
  have p₁ : s₁.x p = s.x p := keeps₁ p hap.symm hbp.symm
  obtain ⟨s₂, quotients, d₂, b₂, a₂, p₂, same₂⟩ := execAll_quotients regs (s := s₁) (p₁ ▸ hp)
  rw [p₁, a₁] at d₂
  rw [p₁, b₁] at b₂
  rw [a₁] at a₂
  have cap₂ : s₂.cfg.cap = s.cfg.cap := congrArg Config.cap (same₂.left.trans same₁.left)
  obtain ⟨s₃, corrects, e₃, keeps₃, same₃⟩ := execAll_mul_sub (s := s₂) (x := a) (y := d) (e := d + 1) hbc
    (by rw [b₂, cap₂]; exact (Nat.div_le_self _ _).trans_lt wide)
    (by rw [a₂, d₂, b₂]; exact pow_mul_div_le_high _ hp)
  have a₃ : s₃.x a = 2 ^ (64 * s.n.toNat) := (keeps₃ a hac had1).trans a₂
  have d₃ : s₃.x d = 2 ^ (64 * s.n.toNat) / s.x p := (keeps₃ d hcd.symm hd1.symm).trans d₂
  have p₃ : s₃.x p = s.x p := (keeps₃ p hcp.symm hpd1).trans (p₂.trans p₁)
  have cap₃ : s₃.cfg.cap = s.cfg.cap := (congrArg Config.cap same₃.left).trans cap₂
  obtain ⟨s₄, remainders, f₄, keeps₄, same₄⟩ := execAll_mul_sub (s := s₃) (x := d) (y := p) (e := d + 2) hac
    (by rw [a₃, cap₃]; exact (Nat.pow_le_pow_right (by decide) (by omega)).trans_lt wide)
    (by rw [d₃, p₃, a₃]; exact Nat.div_mul_le_self _ _)
  refine ⟨s₄, ?_, ?_, ?_, ?_, ((same₁.trans same₂).trans same₃).trans same₄⟩
  · rw [barrettExpansion, powers, quotients, corrects, remainders, execAll]
  · rw [keeps₄ d hcd.symm hd2.symm, d₃]
  · rw [keeps₄ (d + 1) hcd1.symm hd12.symm, e₃, b₂, a₂, d₂]
  · rw [f₄, a₃, d₃, p₃]

end

/-- Settles O34: BARRETT and the expansion leave the same constants; with `p = 0` the first DIV meets the zero in the
source, which the powers have not overwritten. -/
theorem barrettEqualsExpansion : Obligations.BarrettEqualsExpansion := by
  intro d p a b c s wf hd hn hab hac hbc hap hbp hcp ha hb hc hpd hpd1
  obtain ⟨_, _, legal, _⟩ := wf
  simp only [List.mem_cons, not_or] at ha hb hc
  obtain ⟨had, had1, _⟩ := ha
  obtain ⟨hbd, hbd1, _⟩ := hb
  obtain ⟨hcd, hcd1, _⟩ := hc
  have regs : ExpansionRegisters d p a b c :=
    ⟨⟨hab, hac, hbc⟩, ⟨hap, hbp, hcp, hpd, hpd1⟩, ⟨had, hbd, hcd⟩, ⟨had1, hbd1, hcd1⟩⟩
  refine ⟨fun hp => ?_, fun hp => ⟨exec_barrett_of_eq_zero hd (.inr hp), ?_⟩⟩
  · obtain ⟨u, runs, ud, ud1, ud2, same⟩ := execAll_barrettExpansion regs legal hn hp
    refine ⟨_, u, exec_barrett_of_ok hd hn (barrettConstants_of_ne_zero _ hp), runs, ?_⟩
    obtain ⟨xr, xs, xt⟩ := s.setTriple_x_destinations d _
    simp only [State.complete_x]
    rw [xr, xs, xt]
    exact ⟨ud, ud1, ud2, same.right⟩
  · obtain ⟨u, powers, _, _, keeps, _⟩ := execAll_powers legal hn hab
    have zero : u.x p = 0 := (keeps p hap.symm hbp.symm).trans hp
    exact ⟨_, (powers _).trans (execAll_cons [] (exec_div_of_eq_zero d a p zero)), rfl⟩

/-! ### DECOMP -/

theorem exec_decomp_of_n_eq_zero {s : State} (p : XIdx) (hn : s.n.toNat = 0) :
    exec (.decomp p) s = .next (Errored s 0x02) :=
  ((execDecomp_cases rfl).resolve_right fun ⟨set, _⟩ => set (s.n_eq_zero_iff.mpr hn)).right

theorem exec_decomp_of_n_ne_zero {s : State} (p : XIdx) (hn : s.n.toNat ≠ 0) :
    exec (.decomp p) s = .next { Completed s with
      obuf := limbSequence s.cfg.lmax s.n.toNat (s.x p)
      ocnt := s.n
      trunc := truncAfter s.trunc s.n.toNat (s.x p) } :=
  ((execDecomp_cases rfl).resolve_left fun ⟨unset, _⟩ => hn (s.n_eq_zero_iff.mp unset)).right

theorem truncAfter_eq_ite (old : Bool) (n x : Nat) :
    truncAfter old n x = if 2 ^ (64 * n) ≤ x then true else old := by
  by_cases wide : 2 ^ (64 * n) ≤ x <;> simp [truncAfter, wide]

theorem truncAfter_eq_false_iff {old : Bool} {n x : Nat} :
    truncAfter old n x = false ↔ old = false ∧ x < 2 ^ (64 * n) := by
  simp [truncAfter]

/-- Settles O19: the entries are those of `limbSequence`. -/
theorem decompCommand : Obligations.DecompCommand := by
  refine ⟨fun c hc => ?_, fun p s hn => ?_, fun p s hn => exec_decomp_of_n_eq_zero p hn⟩
  · rw [← rs1Field_eq_regAt]
    exact decode_eq_build (row := opcodeRows[11]) (List.getElem_mem _) hc rfl
  · refine ⟨_, exec_decomp_of_n_ne_zero p hn, limbSequence_length _ _ _, fun j hj => ?_, rfl,
      truncAfter_eq_ite _ _ _, rfl⟩
    rw [limbSequence_getD, if_pos hj, limb]

/-- Settles O35: with a legal `N` every counted entry is one of OBUF, so it holds a limb of the register. -/
theorem decompIsLimbSequence : Obligations.DecompIsLimbSequence := by
  intro p s t legal hn h
  rw [exec_decomp_of_n_ne_zero p hn] at h
  cases h
  have entry (j : Nat) (hj : j < s.n.toNat) :
      (limbSequence s.cfg.lmax s.n.toNat (s.x p)).getD j 0 = limb (s.x p) j := by
    rw [limbSequence_getD, if_pos (hj.trans_le legal), if_pos hj]
  refine ⟨rfl, fun j hj => ?_, fun _ clear => ?_, fun set => ?_⟩
  · rw [entry j hj, limb_toNat, Nat.shiftRight_eq_div_pow]
    exact (Nat.and_two_pow_sub_one_eq_mod _ 64).symm
  · obtain ⟨_, narrow⟩ := truncAfter_eq_false_iff.mp clear
    calc _ = ((List.range s.n.toNat).map fun j => (limb (s.x p) j).toNat * 2 ^ (64 * j)).sum :=
          congrArg List.sum (List.map_congr_left fun j hj => by rw [entry j (List.mem_range.mp hj)])
      _ = s.x p := by rw [sum_limbs_eq_mod, Nat.mod_eq_of_lt narrow]
  · rw [set, truncAfter, Bool.true_or]

end Sys2Proof.Machine
end

section
/-! The statements of the control and transfer family: its five commands (O8 to O12). -/

namespace Sys2Proof.Machine

open Sys2Proof

/-! ### Each command, by its error condition -/

section
variable {s : State} (d p : XIdx) {k j : BitVec 16}

theorem exec_setn_of_le_lmax (hk : 1 ≤ k.toNat) (h : k.toNat ≤ s.cfg.lmax) :
    exec (.setn k) s = .next { Completed s with n := k } :=
  ((execSetn_cases rfl).resolve_left fun ⟨outside, _⟩ => by omega).right.right

theorem exec_setn_of_outside (h : k.toNat = 0 ∨ s.cfg.lmax < k.toNat) :
    exec (.setn k) s = .next (Errored s 0x02) :=
  ((execSetn_cases rfl).resolve_right fun ⟨nonzero, within, _⟩ => by omega).right

/-- CLR has no error condition (spec R152). -/
theorem exec_clr (s : State) : exec (.clr d) s = .next (s.setX d 0).complete := rfl

/-- MOV has no error condition (spec R153). -/
theorem exec_mov (s : State) : exec (.mov d p) s = .next (s.setX d (s.x p)).complete := rfl

theorem exec_ldl_of_lt_k (h : j.toNat < s.cfg.k) :
    exec (.ldl d j) s = .next (s.setX d (replaceLimb (s.x d) j.toNat s.din)).complete :=
  ((execLdl_cases rfl).resolve_left fun ⟨beyond, _⟩ => beyond.not_gt h).right

theorem exec_ldl_of_k_le (h : s.cfg.k ≤ j.toNat) : exec (.ldl d j) s = .next (Errored s 0x05) :=
  ((execLdl_cases rfl).resolve_right fun ⟨below, _⟩ => h.not_gt below).right

end

/-! ### Limbs -/

/-- The limbs below limb `j` are those of the part below it (spec R8). -/
theorem limb_mod_two_pow {i j : Nat} (v : Nat) (h : i < j) : limb (v % 2 ^ (64 * j)) i = limb v i := by
  have parts : 2 ^ (64 * j) = 2 ^ (64 * i) * 2 ^ (64 * (j - i)) := by
    rw [← pow_add]; congr 1; omega
  have whole : 2 ^ 64 ∣ 2 ^ (64 * (j - i)) := Nat.pow_dvd_pow 2 (by omega)
  apply BitVec.eq_of_toNat_eq
  rw [limb_toNat, limb_toNat, parts, Nat.mod_mul_right_div_self, Nat.mod_mod_of_dvd _ whole]

/-- The limbs from limb `j` on are those of the part above (spec R8). -/
theorem limb_div_two_pow (v i j : Nat) : limb (v / 2 ^ (64 * j)) i = limb v (j + i) := by
  rw [limb, limb, Nat.div_div_eq_div_mul, ← pow_add, Nat.mul_add]

/-- LDL writes its limb and keeps every other one (spec R154). -/
theorem limb_replaceLimb (v j : Nat) (w : Word) (i : Nat) :
    limb (replaceLimb v j w) i = if i = j then w else limb v i := by
  have pos : 0 < 2 ^ (64 * j) := by positivity
  have low : replaceLimb v j w % 2 ^ (64 * j) = v % 2 ^ (64 * j) := by
    rw [replaceLimb_eq, Nat.add_mul_mod_self_left, Nat.mod_mod]
  have fromLimb : replaceLimb v j w / 2 ^ (64 * j) = w.toNat + 2 ^ 64 * (v / 2 ^ (64 * (j + 1))) := by
    rw [replaceLimb_eq, Nat.add_mul_div_left _ _ pos, Nat.div_eq_of_lt (Nat.mod_lt _ pos), Nat.zero_add]
  have above : replaceLimb v j w / 2 ^ (64 * (j + 1)) = v / 2 ^ (64 * (j + 1)) := by
    rw [Nat.mul_succ, pow_add, ← Nat.div_div_eq_div_mul, fromLimb, Nat.add_mul_div_left _ _ (by decide),
      Nat.div_eq_of_lt w.isLt, Nat.zero_add, Nat.mul_succ, pow_add]
  rcases lt_trichotomy i j with below | rfl | beyond
  · rw [if_neg below.ne, ← limb_mod_two_pow _ below, low, limb_mod_two_pow _ below]
  · rw [if_pos rfl, limb, fromLimb]
    exact BitVec.eq_of_toNat_eq (by rw [BitVec.toNat_ofNat, Nat.add_mul_mod_self_left, Nat.mod_eq_of_lt w.isLt])
  · obtain ⟨u, rfl⟩ : ∃ u, i = j + 1 + u := ⟨i - (j + 1), by omega⟩
    rw [if_neg beyond.ne', ← limb_div_two_pow, above, limb_div_two_pow]

/-! ### The commands, one by one -/

/-- Settles O8: the all-zero word is NOP's encoding, so any other word of its opcode breaks a fixed-zero bit. -/
theorem nopCommand : Obligations.NopCommand := by
  refine ⟨fun c hc => ?_, fun c hop hbits s hs hcur => ?_, fun s => rfl⟩
  · exact decode_eq_build (row := opcodeRows[0]) (List.getElem_mem _) hc rfl
  · subst hcur
    have nonzero : s.cur &&& 0xFFFFFFFF ≠ 0x00000000 := by
      intro zero
      rw [show (0xFFFFFFFF : CmdWord) = BitVec.allOnes 32 from rfl, BitVec.and_allOnes] at zero
      exact hbits (by rw [zero]; rfl)
    have illegal : ¬LegalWord s.cur :=
      not_legalWord (.inr (.inl ⟨(0x00, 0x00000000, 0xFFFFFFFF), by decide, hop.symm, nonzero⟩))
    exact step_illegal hs fun i hd => illegal (decodes_iff_legalWord.mp ⟨i, hd⟩)

/-- Settles O9: the statement's two ranges are the two branches of the command. -/
theorem setnCommand : Obligations.SetnCommand := by
  refine ⟨fun c hc => ?_, fun k s hk h => exec_setn_of_le_lmax hk h, fun k s h => exec_setn_of_outside h⟩
  rw [← immField_eq_immAt]
  exact decode_eq_build (row := opcodeRows[1]) (List.getElem_mem _) hc rfl

/-- Settles O10: the command has no error condition. -/
theorem clrCommand : Obligations.ClrCommand := by
  refine ⟨fun c hc => ?_, fun d s => exists_wroteX (exec_clr d s)⟩
  rw [← rdField_eq_regAt]
  exact decode_eq_build (row := opcodeRows[2]) (List.getElem_mem _) hc rfl

/-- Settles O11: writing a register's own value back leaves the register file as it was. -/
theorem movCommand : Obligations.MovCommand := by
  refine ⟨fun c hc => ?_, fun d p s => exists_wroteX (exec_mov d p s), fun d s => ?_⟩
  · rw [← rdField_eq_regAt, ← rs1Field_eq_regAt]
    exact decode_eq_build (row := opcodeRows[3]) (List.getElem_mem _) hc rfl
  · rw [exec_mov, State.setX_x]
    rfl

/-- Settles O12: the rule's formula is `replaceLimb` with the old limb written out. -/
theorem ldlCommand : Obligations.LdlCommand := by
  refine ⟨fun c hc => ?_, fun d j s hj => ?_, fun d j s hj => exec_ldl_of_k_le d hj⟩
  · rw [← rdField_eq_regAt, ← immField_eq_immAt]
    exact decode_eq_build (row := opcodeRows[4]) (List.getElem_mem _) hc rfl
  · obtain ⟨t, ends, wrote⟩ := exists_wroteX (exec_ldl_of_lt_k d hj)
    have limbs (i : Nat) : limb (t.x d) i = if i = j.toNat then s.din else limb (s.x d) i := by
      rw [wrote.x_same, limb_replaceLimb]
    rw [replaceLimb, limb_toNat] at wrote
    exact ⟨t, ends, wrote, limbs⟩

end Sys2Proof.Machine
end

section
/-! The load of a register by a host (O36): the limbs that a program of CLR, DIN writes and LDLs leaves, and that a host
performing it passes through the phases of `State.LoadPhase` alone, whatever the order of its moves. -/

namespace Sys2Proof.Machine

open Sys2Proof

/-! ### The value a load leaves -/

/-- A value is its limbs (spec R8). -/
theorem eq_of_limb_eq {v w : Nat} (h : ∀ j, limb v j = limb w j) : v = w := by
  have fits (u : Nat) (hu : u ≤ v + w) : u < 2 ^ (64 * (v + w)) :=
    Nat.lt_two_pow_self.trans_le (Nat.pow_le_pow_right (by decide) (by omega))
  calc v = v % 2 ^ (64 * (v + w)) := (Nat.mod_eq_of_lt (fits v (by omega))).symm
    _ = w % 2 ^ (64 * (v + w)) := by simp only [← sum_limbs_eq_mod, h]
    _ = w := Nat.mod_eq_of_lt (fits w (by omega))

/-- `w` with the limbs `js` of `v` put in, one LDL after another (spec R154, R155). -/
def withLimbsOf (v : Nat) : List Nat → Nat → Nat
  | [], w => w
  | j :: js, w => withLimbsOf v js (replaceLimb w j (limb v j))

theorem limb_withLimbsOf (v : Nat) (js : List Nat) (w i : Nat) :
    limb (withLimbsOf v js w) i = if i ∈ js then limb v i else limb w i := by
  induction js generalizing w with
  | nil => simp [withLimbsOf]
  | cons j js ih =>
    rw [withLimbsOf, ih, limb_replaceLimb]
    by_cases hi : i = j <;> simp [hi]

/-- From 0, the limbs below `m` that are not 0 make up a value of `m` limbs (spec R155). -/
theorem withLimbsOf_filter_range {v m : Nat} {keep : Nat → Bool} (hv : v < 2 ^ (64 * m))
    (zero : ∀ j < m, keep j = false → limb v j = 0) : withLimbsOf v ((List.range m).filter keep) 0 = v := by
  refine eq_of_limb_eq fun i => ?_
  rw [limb_withLimbsOf, limb_zero]
  split
  · rfl
  · next leftOut =>
    rcases lt_or_ge i m with below | beyond
    · exact (zero i below (by simpa [List.mem_filter, below] using leftOut)).symm
    · exact (limb_eq_zero (hv.trans_le (Nat.pow_le_pow_right (by decide) (by omega)))).symm

/-! ### The program of a load -/

/-- The host's program for the limbs `js`, where each index is an immediate (spec R78, R155). -/
def loadProgram (d : XIdx) (v : Nat) : List Nat → List HostAction
  | [] => []
  | j :: js => .write 0x028 (limb v j) :: issue (encode (.ldl d (BitVec.ofNat 16 j))) ++ loadProgram d v js

/-- An index that is no immediate is the one thing that makes a load an assembly error (spec R78, log 20). -/
theorem loadLimbs_eq (d : XIdx) (v : Nat) (js : List Nat) :
    loadLimbs d v js = if ∀ j ∈ js, j ≤ 65535 then .ok (loadProgram d v js) else .error .immediateRange := by
  induction js with
  | nil => simp [loadLimbs, loadProgram]
  | cons j js ih =>
    by_cases hj : j ≤ 65535
    · by_cases hjs : ∀ j ∈ js, j ≤ 65535
      · have all : ∀ i ∈ j :: js, i ≤ 65535 := List.forall_mem_cons.mpr ⟨hj, hjs⟩
        rw [if_pos all, loadLimbs, withImm, if_pos hj, ih, if_pos hjs]
        rfl
      · have some : ¬∀ i ∈ j :: js, i ≤ 65535 := fun all => hjs (List.forall_mem_cons.mp all).right
        rw [if_neg some, loadLimbs, withImm, if_pos hj, ih, if_neg hjs]
        rfl
    · have first : ¬∀ i ∈ j :: js, i ≤ 65535 := fun all => hj (List.forall_mem_cons.mp all).left
      rw [if_neg first, loadLimbs, withImm, if_neg hj]

/-- Every limb of a register has an index that is an immediate (spec R5, R74). -/
theorem Config.lt_of_lt_k {c : Config} (h : c.Valid) {j : Nat} (hj : j < c.k) : j < 2 ^ 16 := by
  obtain ⟨_, h480, _⟩ := h
  unfold Config.k at hj
  omega

/-! ### One access of a host -/

theorem arrive_cmdAccepted {t : State} (c : CmdWord) (hr : t.rst = false) (hb : t.busy = false) (he : t.err = 0) :
    arrive (hostW t.cfg 0x020 (c.setWidth 64)) t =
      .next { t with cur := c, done := false, busy := true, resp := some .writeDone } := by
  have accepted := step_cmdAccepted (s := { t with arrivals := hostW t.cfg 0x020 (c.setWidth 64) :: t.arrivals })
    (d := c.setWidth 64) ⟨rfl, hr⟩ hb he
  have word : BitVec.ofNat 32 (c.setWidth 64).toNat = c := by
    rw [BitVec.ofNat_toNat, BitVec.setWidth_setWidth_of_le c (by decide), BitVec.setWidth_eq]
  rw [word] at accepted
  exact accepted

theorem arrive_dinWritten {t : State} (d : Word) (hr : t.rst = false) (hb : t.busy = false) :
    arrive (hostW t.cfg 0x028 d) t = .next { t with din := d, resp := some .writeDone } :=
  dinRegister.left { t with arrivals := hostW t.cfg 0x028 d :: t.arrivals } d ⟨rfl, hr⟩ hb

theorem arrive_statusRead {t : State} (hr : t.rst = false) :
    arrive (hostR t.cfg 0x010) t = .next { t with resp := some (.readData t.statusWord) } :=
  statusRegister.left { t with arrivals := hostR t.cfg 0x010 :: t.arrivals } ⟨rfl, hr⟩

/-- A WAIT ends at a STATUS read that shows the block idle (spec R79). -/
theorem endsWait_statusWord (t : State) : endsWait (some t.statusWord) = !t.busy := by
  have bit : t.statusWord[0] = t.busy := by
    have word := t.statusWord_toNat
    have lowest : t.statusWord.toNat % 2 = t.busy.toNat := by
      have := t.busy.toNat_lt
      omega
    rw [BitVec.getElem_eq_testBit_toNat, Nat.testBit_zero, lowest]
    cases t.busy <;> rfl
  rw [endsWait, bit]

/-- A host's move performs its next action. -/
theorem HostRun.move_host {a : HostAction} {rest : List HostAction} {kept : List (Option Word)} {s t : State}
    (h : arrive (a.access s.cfg) s = .next t) :
    HostRun.move ⟨a :: rest, kept, s⟩ .host = .next (HostRun.after ⟨a :: rest, kept, s⟩ a rest t) :=
  State.takeThen_next _ h

/-- A host's move in a WAIT polls STATUS (spec R79). -/
theorem HostRun.move_wait {rest : List HostAction} {kept : List (Option Word)} {t : State} (hr : t.rst = false) :
    HostRun.move ⟨.wait :: rest, kept, t⟩ .host =
      .next ⟨if t.busy then .wait :: rest else rest, kept, { t with resp := some (.readData t.statusWord) }⟩ := by
  rw [HostRun.move_host (a := .wait) (arrive_statusRead hr), HostRun.after, State.answer, Option.bind_some,
    Response.data, endsWait_statusWord]
  cases t.busy <;> rfl

/-! ### The phases of a load -/

/-- The commands of a load of `X[d]`, and the value that each leaves in it (spec R152, R154). -/
inductive State.LoadCommand (t : State) (d : XIdx) : Instr → Nat → Prop
  | clr : t.LoadCommand d (.clr d) 0
  | ldl {j : BitVec 16} (hj : j.toNat < t.cfg.k) : t.LoadCommand d (.ldl d j) (replaceLimb (t.x d) j.toNat t.din)

namespace State.LoadCommand
variable {t : State} {d : XIdx} {i : Instr} {w : Nat}

theorem exec_eq (h : t.LoadCommand d i w) : exec i t = .next (t.setX d w).complete := by
  cases h with
  | clr => exact exec_clr d t
  | ldl hj => exact exec_ldl_of_lt_k d hj

theorem decode_encode (h : t.LoadCommand d i w) : decode (encode i) = .ok i :=
  decodeOfEncode i (by cases h <;> rfl)

/-- A command of a load reads the capacity, the register and DIN alone. -/
theorem congr {u : State} (h : t.LoadCommand d i w) (hc : u.cfg = t.cfg) (hx : u.x d = t.x d) (hd : u.din = t.din) :
    u.LoadCommand d i w := by
  cases h with
  | clr => exact .clr
  | ldl hj => rw [← hx, ← hd]; exact .ldl (hc ▸ hj)

end State.LoadCommand

/-- The limbs `js` are within a register, and LDLs of them take `w` to `v`. -/
abbrev LoadsTo (c : Config) (v : Nat) (js : List Nat) (w : Nat) : Prop := (∀ j ∈ js, j < c.k) ∧ withLimbsOf v js w = v

/-- Where the block stands while a host has these actions of a load of `X[d] = v` left: the program is cut between two
commands, before the CMD write of one, and in its WAIT, before and after the command's complete step. -/
inductive State.LoadPhase (t : State) (d : XIdx) (v : Nat) : List HostAction → Prop
  | between {js : List Nat} : t.busy = false → LoadsTo t.cfg v js (t.x d) → t.LoadPhase d v (loadProgram d v js)
  | issuing {i : Instr} {w : Nat} {js : List Nat} : t.busy = false → t.LoadCommand d i w → LoadsTo t.cfg v js w →
      t.LoadPhase d v (issue (encode i) ++ loadProgram d v js)
  | running {i : Instr} {w : Nat} {js : List Nat} : t.busy = true → decode t.cur = .ok i → t.LoadCommand d i w →
      LoadsTo t.cfg v js w → t.LoadPhase d v (.wait :: loadProgram d v js)
  | ended {js : List Nat} : t.busy = false → LoadsTo t.cfg v js (t.x d) →
      t.LoadPhase d v (.wait :: loadProgram d v js)

/-- What stays, from the block `s`, while `X[d]` is loaded (spec R155). -/
structure State.LoadFrame (s : State) (d : XIdx) (t : State) : Prop where
  valid : t.cfg.Valid
  released : t.rst = false
  noError : t.err = 0
  ovr : t.ovr = s.ovr
  others : ∀ i, i ≠ d → t.x i = s.x i

/-- A host under way with a load of `X[d] = v` that began at the block `s`. -/
abbrev HostRun.Loading (s : State) (d : XIdx) (v : Nat) (r : HostRun) : Prop :=
  s.LoadFrame d r.block ∧ r.block.LoadPhase d v r.todo

section
variable {s t : State} {d : XIdx} {v : Nat} {r : HostRun}

theorem State.LoadFrame.setX_complete (h : s.LoadFrame d t) (w : Nat) : s.LoadFrame d (t.setX d w).complete where
  valid := h.valid
  released := h.released
  noError := h.noError
  ovr := h.ovr
  others i hi := (t.x_setX_ne w hi).trans (h.others i hi)

/-- A program that is over leaves the block idle with the value in the register. -/
theorem State.LoadPhase.finished (h : t.LoadPhase d v []) : t.busy = false ∧ t.x d = v := by
  generalize hp : ([] : List HostAction) = todo at h
  cases h with
  | @between js idle value =>
    cases js with
    | nil => exact ⟨idle, value.right⟩
    | cons j js => cases hp
  | issuing => cases hp
  | running => cases hp
  | ended => cases hp

/-- The engine's turn ends the command in flight, if any, and nothing is in flight then (spec R10). -/
theorem State.LoadPhase.engineTurn {todo : List HostAction} (frame : s.LoadFrame d t) (h : t.LoadPhase d v todo) :
    ∃ u, arrive .engineTurn t = .next u ∧ u.busy = false ∧ s.LoadFrame d u ∧ u.LoadPhase d v todo := by
  cases h with
  | between idle value => exact ⟨t, engineTurn_idle idle, idle, frame, .between idle value⟩
  | issuing idle command value => exact ⟨t, engineTurn_idle idle, idle, frame, .issuing idle command value⟩
  | ended idle value => exact ⟨t, engineTurn_idle idle, idle, frame, .ended idle value⟩
  | @running i w js busy hd command value =>
    have completes : arrive .engineTurn t = .next (t.setX d w).complete := by
      rcases engineTurn_cases (rfl : Machine.engineTurn t = _) with ⟨off, _⟩ | ⟨_, _, e⟩
      · simp [frame.released, busy] at off
      · exact e.trans ((completeCommand_of_decode hd).trans command.exec_eq)
    refine ⟨_, completes, rfl, frame.setX_complete w, .ended rfl ?_⟩
    rwa [State.complete_x, State.x_setX_same]

/-- The host's access takes the load to its next phase; where nothing is in flight it gets an action further. -/
theorem HostRun.Loading.host (h : r.Loading s d v) :
    ∃ r', r.move .host = .next r' ∧ r'.Loading s d v ∧ (r.block.busy = false → r'.todo = r.todo.tail) := by
  obtain ⟨todo, kept, b⟩ := r
  obtain ⟨frame, phase⟩ : s.LoadFrame d b ∧ b.LoadPhase d v todo := h
  cases phase with
  | @between js idle value =>
    cases js with
    | nil => exact ⟨_, rfl, ⟨frame, .between (js := []) idle value⟩, fun _ => rfl⟩
    | cons j js =>
      obtain ⟨bounds, loads⟩ := value
      obtain ⟨hj, hjs⟩ := List.forall_mem_cons.mp bounds
      have index : (BitVec.ofNat 16 j).toNat = j := by
        rw [BitVec.toNat_ofNat, Nat.mod_eq_of_lt (Config.lt_of_lt_k frame.valid hj)]
      refine ⟨_, HostRun.move_host (arrive_dinWritten _ frame.released idle), ⟨{ frame with }, ?_⟩, fun _ => rfl⟩
      refine .issuing idle (.ldl (by rwa [index])) ⟨hjs, ?_⟩
      rwa [index]
  | issuing idle command value =>
    exact ⟨_, HostRun.move_host (arrive_cmdAccepted _ frame.released idle frame.noError),
      ⟨{ frame with }, .running rfl command.decode_encode (command.congr rfl rfl rfl) value⟩, fun _ => rfl⟩
  | running busy hd command value =>
    refine ⟨_, HostRun.move_wait frame.released, ⟨{ frame with }, ?_⟩, fun idle => ?_⟩
    · rw [if_pos busy]
      exact .running busy hd (command.congr rfl rfl rfl) value
    · exact absurd (idle.symm.trans busy) Bool.false_ne_true
  | ended idle value =>
    have notBusy : ¬b.busy = true := by simp [idle]
    refine ⟨_, HostRun.move_wait frame.released, ⟨{ frame with }, ?_⟩, fun _ => if_neg notBusy⟩
    rw [if_neg notBusy]
    exact .between idle value

/-- While only the engine comes between the host's accesses, no move leaves the phases. -/
theorem HostRun.Loading.moves {ms : List Move} (h : r.Loading s d v)
    (others : ∀ a, Move.other a ∈ ms → a = .engineTurn) : ∃ r', r.moves ms = .next r' ∧ r'.Loading s d v := by
  induction ms generalizing r with
  | nil => exact ⟨r, r.moves_nil, h⟩
  | cons m ms ih =>
    obtain ⟨r', moved, h'⟩ : ∃ r', r.move m = .next r' ∧ r'.Loading s d v := by
      cases m with
      | host =>
        obtain ⟨r', moved, h', _⟩ := h.host
        exact ⟨r', moved, h'⟩
      | other a =>
        cases others a List.mem_cons_self
        obtain ⟨u, arrives, _, h'⟩ := h.right.engineTurn h.left
        exact ⟨_, State.takeThen_next _ arrives, h'⟩
    rw [HostRun.moves_cons ms moved]
    exact ih h' fun a ha => others a (List.mem_cons_of_mem _ ha)

/-- With the engine's turn before each, as many accesses as there are actions left end the program. -/
theorem HostRun.Loading.ends (h : r.Loading s d v) :
    ∃ u, r.moves (List.replicate r.todo.length [.other .engineTurn, .host]).flatten = .next u ∧ u.todo = [] := by
  generalize left : r.todo.length = n
  induction n generalizing r with
  | zero => exact ⟨r, r.moves_nil, List.length_eq_zero_iff.mp left⟩
  | succ n ih =>
    obtain ⟨t, arrives, idle, loading⟩ := h.right.engineTurn h.left
    have turn : r.move (.other .engineTurn) = .next { r with block := t } := State.takeThen_next _ arrives
    obtain ⟨r', accessed, h', further⟩ := HostRun.Loading.host (r := { r with block := t }) loading
    have length : r'.todo.length = n := by rw [further idle, List.length_tail, left, Nat.add_sub_cancel]
    obtain ⟨u, rest, finished⟩ := ih h' length
    refine ⟨u, ?_, finished⟩
    rw [List.replicate_succ, List.flatten_cons, List.cons_append, HostRun.moves_cons _ turn, List.cons_append,
      HostRun.moves_cons _ accessed]
    exact rest

end

/-- The load of the limbs that are kept, from an idle block without an error: its program, and its first phase. -/
theorem State.hostAt_loading {s : State} {d : XIdx} {v m : Nat} {keep : Nat → Bool} (valid : s.cfg.Valid)
    (released : s.rst = false) (idle : s.busy = false) (noError : s.err = 0) (hm : m ≤ s.cfg.k) (hv : v < 2 ^ (64 * m))
    (zero : ∀ j < m, keep j = false → limb v j = 0) :
    ∃ program, clearAndLoad d v ((List.range m).filter keep) = .ok program ∧
      (s.hostAt program).Loading s d v := by
  have bounds : ∀ j ∈ (List.range m).filter keep, j < s.cfg.k := fun j hj =>
    (List.mem_range.mp (List.mem_of_mem_filter hj)).trans_le hm
  have immediates : ∀ j ∈ (List.range m).filter keep, j ≤ 65535 := fun j hj =>
    Nat.le_of_lt_succ (Config.lt_of_lt_k valid (bounds j hj))
  refine ⟨issue (encode (.clr d)) ++ loadProgram d v ((List.range m).filter keep), ?_, ?_, ?_⟩
  · rw [clearAndLoad, loadLimbs_eq, if_pos immediates]
    rfl
  · exact ⟨valid, released, noError, rfl, fun _ _ => rfl⟩
  · exact .issuing idle .clr ⟨bounds, withLimbsOf_filter_range hv zero⟩

/-- Settles O36: the load starts in a phase, moves keep it in one, and the last one holds the value. -/
theorem loadLaw : Obligations.LoadLaw := by
  refine ⟨fun s d v m keep valid released idle noError hm hv zero => ?_, fun d v m => rfl,
    fun d v m j beyond hj nonzero => ?_⟩
  · obtain ⟨program, assembled, start⟩ := State.hostAt_loading (d := d) valid released idle noError hm hv zero
    refine ⟨program, assembled, fun ms others => ?_⟩
    obtain ⟨r, moved, loading⟩ := start.moves others
    refine ⟨r, moved, fun finished => ?_, loading.ends⟩
    obtain ⟨frame, phase⟩ := loading
    rw [finished] at phase
    obtain ⟨ended, value⟩ := phase.finished
    exact ⟨value, frame.others, frame.noError, frame.ovr, ended⟩
  · have loaded : j ∈ (List.range m).filter fun j => decide (limb v j ≠ 0) :=
      List.mem_filter.mpr ⟨List.mem_range.mpr hj, decide_eq_true nonzero⟩
    have noImmediate : ¬∀ j ∈ (List.range m).filter fun j => decide (limb v j ≠ 0), j ≤ 65535 :=
      fun all => absurd (all j loaded) (by omega)
    rw [loadv, clearAndLoad, loadLimbs_eq, if_neg noImmediate]
    rfl

end Sys2Proof.Machine
end

section
/-! The statements of the exceptions family: what every complete step leaves (O7), the error a command takes (O21), the
lockout (O22), the interrupt line (O51), and a completion beside a soft reset (O55). -/

namespace Sys2Proof.Machine

open Sys2Proof

/-! ### Every complete step ends -/

/-- No complete step is an answer to the host. -/
theorem State.Ended.resp_draws {s t : State} (h : s.Ended t) : t.resp = s.resp ∧ t.draws = s.draws := by
  cases h <;> exact ⟨rfl, rfl⟩

/-- Settles O7: what a complete step writes leaves these elements, of whatever word it is the step. -/
theorem everyCompleteStepEnds : Obligations.EveryCompleteStepEnds := by
  intro s hc
  obtain ⟨t, ht⟩ := completeCommand_isNext s.taken
  have ended : s.taken.Ended t := completeCommand_ended ht
  obtain ⟨busy, done, ovr, din, ie, cur, rst⟩ := ended.frame
  obtain ⟨arrivals, cfg⟩ := ended.arrivals_cfg
  obtain ⟨resp, draws⟩ := ended.resp_draws
  exact ⟨t, (step_completing hc).trans ht, busy, done, cfg, din, ie, ovr, cur, rst, arrivals, resp, draws⟩

/-! ### Error entry -/

/-- `o` is how a command with the error code `code` of spec R182 ends: the precise abort with that code (spec R175,
R176), or, with no error, a next state whose ERR and ERRCMD are as they were. -/
def State.EndsByCode (s : State) (code : BitVec 8) (o : Host.Outcome State Fault Refusal) : Prop :=
  (code ≠ 0 → o = .next (Errored s code)) ∧
    (code = 0 → ∃ t, o = .next t ∧ t.err = s.err ∧ t.errcmd = s.errcmd)

namespace State.EndsByCode

variable {s t : State} {code code' : BitVec 8} {o : Host.Outcome State Fault Refusal}

theorem of_errored (hcode : code ≠ 0) (h : o = .next (Errored s code)) : s.EndsByCode code o :=
  ⟨fun _ => h, fun zero => absurd zero hcode⟩

theorem of_next (h : o = .next t) (herr : t.err = s.err) (herrcmd : t.errcmd = s.errcmd) : s.EndsByCode 0 o :=
  ⟨fun nonzero => absurd rfl nonzero, fun _ => ⟨t, h, herr, herrcmd⟩⟩

/-- The checks of spec R182 are made one after another. -/
theorem of_ite {c : Prop} [Decidable c] (pos : c → s.EndsByCode code o) (neg : ¬c → s.EndsByCode code' o) :
    s.EndsByCode (if c then code else code') o := by
  split
  · next h => exact pos h
  · next h => exact neg h

end State.EndsByCode

/-- The cause of MUL with the capacity of spec R5 by its name. -/
theorem errorCause_mul (d a b : XIdx) (s : State) :
    errorCause (.mul d a b) s = if 2 ^ s.cfg.cap ≤ s.x a * s.x b then 0x05 else 0x00 := by
  rw [errorCause, Config.cap, Config.k]

/-- Every command ends as the table of spec R171 and R182 says: check by check, the command's own branches. -/
theorem exec_endsByCode (i : Instr) (s : State) : s.EndsByCode (errorCause i s) (exec i s) := by
  cases i with
  | nop => exact .of_next rfl rfl rfl
  | setn k =>
    exact .of_ite (fun outside => .of_errored (by decide) (exec_setn_of_outside outside))
      fun inside => .of_next (exec_setn_of_le_lmax (by omega) (by omega)) rfl rfl
  | clr d => exact .of_next (exec_clr d s) rfl rfl
  | mov d p => exact .of_next (exec_mov d p s) rfl rfl
  | ldl d j =>
    exact .of_ite (fun beyond => .of_errored (by decide) (exec_ldl_of_k_le d beyond))
      fun below => .of_next (exec_ldl_of_lt_k d (Nat.lt_of_not_le below)) rfl rfl
  | pow2 d e =>
    exact .of_ite (fun beyond => .of_errored (by decide) (exec_pow2_of_cap_le d beyond))
      fun below => .of_next (exec_pow2_of_lt_cap d (Nat.lt_of_not_le below)) rfl rfl
  | pow2n d m =>
    exact .of_ite (fun unset => .of_errored (by decide) (exec_pow2n_of_n_eq_zero d unset)) fun set =>
      .of_ite (fun beyond => .of_errored (by decide) (exec_pow2n_of_cap_le d set beyond))
        fun below => .of_next (exec_pow2n_of_lt_cap d set (Nat.lt_of_not_le below)) rfl rfl
  | div d a b =>
    exact .of_ite (fun zero => .of_errored (by decide) (exec_div_of_eq_zero d a b zero))
      fun nonzero => .of_next (exec_div_of_ne_zero d a b nonzero) rfl rfl
  | mul d a b =>
    rw [errorCause_mul]
    exact .of_ite (fun beyond => .of_errored (by decide) (exec_mul_of_le d a b beyond))
      fun below => .of_next (exec_mul_of_lt d a b (Nat.lt_of_not_le below)) rfl rfl
  | sub d a b =>
    exact .of_ite (fun smaller => .of_errored (by decide) (exec_sub_of_lt d a b smaller))
      fun enough => .of_next (exec_sub_of_le d a b (Nat.le_of_not_lt enough)) rfl rfl
  | limb p j => exact .of_next (exec_limb p s j) rfl rfl
  | decomp p =>
    exact .of_ite (fun unset => .of_errored (by decide) (exec_decomp_of_n_eq_zero p unset))
      fun set => .of_next (exec_decomp_of_n_ne_zero p set) rfl rfl
  | barrett d p =>
    exact .of_ite (fun gt => .of_errored (by decide) (exec_barrett_of_gt gt)) fun notGt =>
      have le : d.val ≤ 5 := Nat.le_of_not_lt notGt
      .of_ite (fun unset => .of_errored (by decide) (exec_barrett_of_eq_zero le (.inl unset))) fun set =>
        .of_ite (fun zero => .of_errored (by decide) (exec_barrett_of_eq_zero le (.inr zero)))
          fun nonzero => .of_next (exec_barrett_of_ok le set (barrettConstants_of_ne_zero _ nonzero)) rfl rfl

/-- Settles O21: BARRETT has no further cause, as its Underflow guards are never true (spec R134). -/
theorem errorCauseIsTaken : Obligations.ErrorCauseIsTaken :=
  ⟨fun _ hc illegal => step_illegal hc illegal, exec_endsByCode⟩

/-! ### A completion beside a soft reset -/

/-- A soft reset leaves nothing of the state but its parameters and the model's own fields (spec R201). -/
theorem step_softReset_resetWith {s : State} {d : Word} (h : s.WritesWindow 0x008 d) (h1 : d[1] = true) :
    step s = .next { State.resetWith s.cfg with
      arrivals := s.arrivals.tail, draws := s.draws, resp := some .writeDone } := by
  rw [step_softReset h h1, State.resetBlock, h.2]
  rfl

/-- Settles O55: after the reset no command is in flight for the engine's turn; after the completion the reset still
finds the parameters and the draws as they were. -/
theorem softResetAndCompletionOrders : Obligations.SoftResetAndCompletionOrders := by
  intro s d hr hb h1
  constructor
  · have reset := step_softReset_resetWith (s := { s with arrivals := [hostW s.cfg 0x008 d, .engineTurn] })
      ⟨rfl, hr⟩ h1
    have idle := stepRunsDecodedCommand.right
      { State.resetWith s.cfg with arrivals := [.engineTurn], draws := s.draws, resp := some .writeDone } rfl rfl
    exact (run_succ_of_next reset).trans (run_succ_of_next idle)
  · obtain ⟨t, completes, _, _, cfg, _, _, _, _, rst, arrivals, _, draws⟩ :=
      everyCompleteStepEnds { s with arrivals := [.engineTurn, hostW s.cfg 0x008 d] } ⟨rfl, hr, hb⟩
    have writes : t.WritesWindow 0x008 d := ⟨by rw [State.nextUp, arrivals, cfg]; rfl, rst.trans hr⟩
    have reset := step_softReset_resetWith writes h1
    rw [cfg, arrivals, draws] at reset
    exact (run_succ_of_next completes).trans (run_succ_of_next reset)

/-! ### The lockout and the interrupt line -/

/-- Settles O22: an error drops the write, and excludes the command that an engine's turn would perform. -/
theorem lockoutWhileInError : Obligations.LockoutWhileInError := by
  refine ⟨fun s d herr h => ⟨_, step_cmdDropped h (.inr herr)⟩, fun s clean herr hup => ?_⟩
  have idle : s.busy = false := Bool.eq_false_of_not_eq_true fun busy => herr (clean busy).left
  exact stepRunsDecodedCommand.right s hup idle

theorem State.irq_of_done_eq_false {s : State} (h : s.done = false) : s.irq = false := by
  rw [State.irq, h, Bool.and_false]

theorem State.irq_of_ie_eq_false {s : State} (h : s.ie = false) : s.irq = false := by
  rw [State.irq, h, Bool.false_and]

/-- Settles O51: each of the three ways clears DONE or IE, a CTRL write with SRST = 1 clears both. -/
theorem interruptLevel : Obligations.InterruptLevel := by
  refine ⟨fun s => rfl, fun s t hc ht => ?_, fun s t d h h1 ht => ?_, fun s t d h hb he ht => ?_,
    fun s t d h h0 ht => ?_, fun c => rfl⟩
  · obtain ⟨u, hu, _, done, _, _, ie, _⟩ := everyCompleteStepEnds s hc
    cases ht.symm.trans hu
    rw [State.irq, done, ie, Bool.and_true]
  · obtain ⟨_, _, statusWritten⟩ := statusRegister
    cases ht.symm.trans (statusWritten s d h)
    exact State.irq_of_done_eq_false (if_pos h1)
  · cases ht.symm.trans (step_cmdAccepted h hb he)
    exact State.irq_of_done_eq_false rfl
  · cases h1 : d[1] with
    | true =>
      cases ht.symm.trans (step_softReset h h1)
      exact State.irq_of_ie_eq_false rfl
    | false =>
      cases ht.symm.trans (step_ctrlWrite h h1)
      exact State.irq_of_ie_eq_false h0

end Sys2Proof.Machine
end

section
/-! The statements of the reset and hazard family: the hard reset (O53) and the soft reset (O54), the end of every
accepted command (O58), the host's check after a command (O60), and reads while busy (O46). -/

namespace Sys2Proof.Machine

open Sys2Proof

/-! ### The hard reset -/

/-- A level on RST as one step (spec R200). -/
theorem step_rst {s : State} {level : Bool} (h : s.nextUp = .rst level) :
    step s = .next (s.taken.rstLevel level) := by
  rw [step_eq_arrive, h, arrive]

theorem rstAsserts_eq_true {c : Config} {level : Bool} (h : level = c.rstPolarity.activeHigh) :
    rstAsserts c level = true :=
  beq_iff_eq.mpr h

theorem rstAsserts_eq_false {c : Config} {level : Bool} (h : level ≠ c.rstPolarity.activeHigh) :
    rstAsserts c level = false :=
  beq_eq_false_iff_ne.mpr h

/-- While RST is asserted the engine's turn and a host access leave all but the answer as it was (spec R200). -/
theorem step_of_rst_asserted {s : State} (hr : s.rst = true) (notLevel : ∀ level, s.nextUp ≠ .rst level) :
    ∃ r, step s = .next { s.taken with resp := r } ∧ (s.nextUp ≠ .engineTurn → r = none) := by
  rw [step_eq_arrive]
  cases hup : s.nextUp with
  | engineTurn => exact ⟨s.resp, by simp [arrive, engineTurn, hr], fun h => absurd rfl h⟩
  | read addr bits => exact ⟨none, by simp [arrive, hr, State.unanswered], fun _ => rfl⟩
  | write addr bits d => exact ⟨none, by simp [arrive, hr, State.unanswered], fun _ => rfl⟩
  | rst level => exact absurd hup (notLevel level)

/-- Settles O53: a level that asserts RST resets and holds; one that does not resets and releases, or finds RST
released. -/
theorem hardReset : Obligations.HardReset := by
  refine ⟨fun s hr hup => step_of_rst_asserted hr hup, fun s level hup hl hr => ?_, fun s level hup hl => ?_,
    fun s level hup hl hr => ?_⟩
  · rw [step_rst hup, State.rstLevel, rstAsserts_eq_false hl, if_neg Bool.false_ne_true, if_pos hr]
    rfl
  · refine ⟨_, step_rst hup, ?_⟩
    rw [State.rstLevel, rstAsserts_eq_true hl, if_pos rfl]
    exact ⟨rfl, rfl, rfl⟩
  · have released : ¬s.taken.rst = true := Bool.eq_false_iff.mp hr
    rw [step_rst hup, State.rstLevel, rstAsserts_eq_false hl, if_neg Bool.false_ne_true, if_neg released]

/-! ### The soft reset -/

/-- Settles O54: what the reset keeps is the model's own (log 6). -/
theorem softReset : Obligations.SoftReset :=
  fun _ _ h h1 => ⟨_, _, step_softReset_resetWith h h1⟩

/-! ### Reads while busy -/

/-- A busy read of a result register answers the next free value (spec R206, log 3). -/
theorem step_freeRead {s : State} {off : Nat} {r : WindowReg} (h : s.ReadsWindow off) (ho : off < 4096)
    (h8 : off % 8 = 0) (hr : windowReg s.cfg off = r) (hb : s.busy = true) (hu : r.unspecifiedWhileBusy = true) :
    step s = .next
      { s.taken with resp := some (.readData (Config.busyRead s.draws)), draws := s.draws + 1 } := by
  have free : (s.taken.busy && r.unspecifiedWhileBusy) = true := Bool.and_eq_true_iff.mpr ⟨hb, hu⟩
  rw [step_readsWindow h ho h8, hr, State.readRegister, if_pos free]

/-- Settles O46: by the register that lies at the offset. -/
theorem busyReadsAreFree : Obligations.BusyReadsAreFree := by
  refine ⟨fun s off hv hb place h => ?_, fun s _ => ⟨fun h => ?_, fun h => ?_, fun h => ?_⟩⟩
  · rcases place with named | ⟨j, hj, rfl⟩
    · simp only [List.mem_cons, List.not_mem_nil, or_false] at named
      rcases named with rfl | rfl | rfl | rfl
      · exact step_freeRead h (by decide) (by decide) (windowReg_lcount _) hb rfl
      · exact step_freeRead h (by decide) (by decide) (windowReg_dout _) hb rfl
      · exact step_freeRead h (by decide) (by decide) (windowReg_errcmd _) hb rfl
      · exact step_freeRead h (by decide) (by decide) (windowReg_ocnt _) hb rfl
    · obtain ⟨_, hmax, _⟩ := hv
      exact step_freeRead h (by omega) (by omega) (windowReg_obuf _ hj) hb rfl
  · exact step_exactRead h (by decide) (by decide) (windowReg_ctrl _) (.inr rfl)
  · exact step_exactRead h (by decide) (by decide) (windowReg_status _) (.inr rfl)
  · exact step_exactRead h (by decide) (by decide) (windowReg_din _) (.inr rfl)

/-! ### Every accepted command ends -/

/-- Every reset answers a next state with no command in flight (spec R200, R201). -/
theorem step_resetting {s : State} (h : s.Resetting) : ∃ t, step s = .next t ∧ t.busy = false := by
  obtain ⟨_, releases, asserts, _⟩ := hardReset
  rcases h with ⟨level, hup, hl⟩ | ⟨d, hw, h1⟩
  · by_cases active : level = s.cfg.rstPolarity.activeHigh
    · obtain ⟨t, ht, _, idle, _⟩ := asserts s level hup active
      exact ⟨t, ht, idle⟩
    · exact ⟨_, releases s level hup active (hl.resolve_left active), rfl⟩
  · exact ⟨_, step_softReset_resetWith hw h1, rfl⟩

/-- No step faults while every access still to arrive is addressed to the window (spec R50, log 7). -/
theorem step_isNext_of_inWindow {s : State} (h : ∀ a ∈ s.arrivals, a.inWindow s.cfg = true) :
    ∃ t, step s = .next t := by
  have next : s.nextUp.inWindow s.cfg = true := by
    unfold State.nextUp
    cases hl : s.arrivals with
    | nil => rfl
    | cons a rest => exact h a (hl ▸ List.mem_cons_self)
  refine (step_isNext_or_accessesOutside s).resolve_right fun ⟨addr, _, outside, access⟩ => ?_
  rcases access with ⟨bits, hup⟩ | ⟨bits, d, hup⟩ <;>
  · rw [hup] at next
    have := of_decide_eq_true next
    omega

/-- A step that neither completes the command in flight nor resets the block leaves it in flight (spec R34, R211). -/
theorem State.Effect.stays_inFlight {s t : State} (h : s.Effect t) (hb : s.busy = true) (hc : ¬s.Completing)
    (hr : ¬s.Resetting) : t.busy = true ∧ t.cur = s.cur ∧ t.rst = s.rst := by
  refine ⟨?_, ?_, h.rst_kept hr⟩
  · by_contra idle
    exact (h.busy_cleared hb (Bool.eq_false_of_not_eq_true idle)).elim hc hr
  · by_contra changed
    obtain ⟨_, _, idle, _⟩ := h.cur_changed hr changed
    exact Bool.false_ne_true (idle.symm.trans hb)

/-- The two steps that end the command in flight (spec R177, R200, R201). -/
theorem step_endsInFlight {s : State} (h : s.Completing ∨ s.Resetting) :
    ∃ t, step s = .next t ∧ t.busy = false ∧ ((s.Completing ∧ t.done = true) ∨ s.Resetting) := by
  rcases h with hc | hr
  · obtain ⟨t, ht, idle, done, _⟩ := everyCompleteStepEnds s hc
    exact ⟨t, ht, idle, .inl ⟨hc, done⟩⟩
  · obtain ⟨t, ht, idle⟩ := step_resetting hr
    exact ⟨t, ht, idle, .inr hr⟩

/-- Settles O58, by induction on the arrivals still to come: with none left the turn is the engine's. -/
theorem everyAcceptedCommandEnds : Obligations.EveryAcceptedCommandEnds := by
  intro s hb hr inWindow
  generalize hl : s.arrivals = l
  induction l generalizing s with
  | nil =>
    have hc : s.Completing := ⟨by rw [State.nextUp, hl]; rfl, hr, hb⟩
    obtain ⟨t, ht, ends⟩ := step_endsInFlight (.inl hc)
    exact ⟨0, le_rfl, s, t, rfl, ht, hb, rfl, ends⟩
  | cons a rest ih =>
    by_cases now : s.Completing ∨ s.Resetting
    · obtain ⟨t, ht, ends⟩ := step_endsInFlight now
      exact ⟨0, Nat.zero_le _, s, t, rfl, ht, hb, rfl, ends⟩
    obtain ⟨hc, hs⟩ := not_or.mp now
    obtain ⟨s', hs'⟩ := step_isNext_of_inWindow inWindow
    obtain ⟨busy, cur, rst⟩ := (step_effect hs').stays_inFlight hb hc hs
    obtain ⟨arrivals, cfg⟩ := (step_effect hs').arrivals_cfg
    rw [hl, List.tail_cons] at arrivals
    have inWindow' : ∀ b ∈ s'.arrivals, b.inWindow s'.cfg = true := by
      rw [arrivals, cfg]
      exact fun b hmem => inWindow b (hl ▸ List.mem_cons_of_mem a hmem)
    obtain ⟨k, hk, u, t, run, ht, inFlight, latched, ends⟩ := ih s' busy (rst.trans hr) inWindow' arrivals
    exact ⟨k + 1, Nat.succ_le_succ hk, u, t, (run_succ_of_next hs').trans run, ht, inFlight, latched.trans cur, ends⟩

/-! ### The host's check after a command -/

/-- The bits of STATUS that the host's check reads (spec R29). -/
theorem State.statusWord_fields (s : State) :
    s.statusWord[1] = s.done ∧ s.statusWord[3] = s.ovr ∧ s.statusWord.extractLsb' 8 8 = s.err := by
  have word := s.statusWord_toNat
  have hb := s.busy.toNat_lt
  have hd := s.done.toNat_lt
  have ht := s.trunc.toNat_lt
  have ho := s.ovr.toNat_lt
  have he := s.err.isLt
  have bit {i : Nat} {b : Bool} (hi : i < 64) (h : s.statusWord.toNat / 2 ^ i % 2 = b.toNat) : s.statusWord[i] = b := by
    rw [BitVec.getElem_eq_testBit_toNat, Nat.testBit_eq_decide_div_mod_eq, h]
    cases b <;> rfl
  refine ⟨bit _ (by omega), bit _ (by omega), BitVec.eq_of_toNat_eq ?_⟩
  rw [BitVec.extractLsb'_toNat, Nat.shiftRight_eq_div_pow]
  omega

/-- What the host's check says of the block before and after (spec R205). -/
theorem commandSucceeded_statusWord_iff (s t : State) : commandSucceeded s.statusWord t.statusWord = true ↔
    s.ovr = false ∧ t.ovr = false ∧ t.done = true ∧ t.err = 0 := by
  obtain ⟨_, ovr, _⟩ := s.statusWord_fields
  obtain ⟨done', ovr', err'⟩ := t.statusWord_fields
  simp [commandSucceeded, ovr, done', ovr', err', and_assoc]

/-- No error cause reads the latch, STATUS, the answer or what is still to arrive (spec R182). -/
theorem errorCause_congr (i : Instr) (s : State) (c : CmdWord) (b d : Bool) (as : List Arrival) (r : Option Response) :
    errorCause i { s with cur := c, busy := b, done := d, arrivals := as, resp := r } = errorCause i s := by
  cases i <;> rfl

/-- What the host's check reads of a complete step from `ERR = 0`: DONE is set, OVR is kept, and ERR is 0 exactly for a
legal word without an error cause (spec R175, R177, R182). -/
theorem step_completing_check {s : State} (hc : s.Completing) (he : s.err = 0) :
    ∃ t, step s = .next t ∧ t.done = true ∧ t.ovr = s.ovr ∧
      (t.err = 0 ↔ ∃ i, decode s.cur = .ok i ∧ errorCause i s = 0) := by
  obtain ⟨t, ht, _, done, _, _, _, ovr, _⟩ := everyCompleteStepEnds s hc
  refine ⟨t, ht, done, ovr, ?_⟩
  obtain ⟨illegalWord, endsByCode⟩ := errorCauseIsTaken
  cases hd : decode s.cur with
  | error e =>
    cases ht.symm.trans (illegalWord s hc fun i hi => by cases hd.symm.trans hi)
    simp
  | ok i =>
    obtain ⟨errs, succeeds⟩ := endsByCode i s.taken
    have cause : errorCause i s.taken = errorCause i s := errorCause_congr i s s.cur s.busy s.done _ s.resp
    rw [cause] at errs succeeds
    have runs : exec i s.taken = .next t := (stepRunsDecodedCommand.left s i hc hd).symm.trans ht
    simp only [Except.ok.injEq, exists_eq_left']
    by_cases zero : errorCause i s = 0
    · obtain ⟨u, hu, err, _⟩ := succeeds zero
      cases runs.symm.trans hu
      exact iff_of_true (err.trans he) zero
    · cases runs.symm.trans (errs zero)
      rfl

/-- The engine's turn always answers a next state, and never touches OVR (spec R29, R190). -/
theorem step_engineTurn_ovr {s : State} (h : s.nextUp = .engineTurn) : ∃ t, step s = .next t ∧ t.ovr = s.ovr := by
  have turn : step s = engineTurn s.taken := by rw [step_eq_arrive, h, arrive]
  rcases engineTurn_cases turn.symm with ⟨_, e⟩ | ⟨_, _, e⟩
  · exact ⟨_, e, rfl⟩
  · obtain ⟨t, ht⟩ := completeCommand_isNext s.taken
    obtain ⟨_, _, ovr, _⟩ := (completeCommand_ended ht).frame
    exact ⟨t, e.trans ht, ovr⟩

/-- Settles O60: a dropped write leaves OVR set, and an accepted one lets the complete step decide by ERR. -/
theorem hostCheckIsSound : Obligations.HostCheckIsSound := by
  intro s c hr harr
  have hup : s.nextUp = hostW s.cfg 0x020 (c.setWidth 64) := by rw [State.nextUp, harr]; rfl
  have next : s.arrivals.tail.headD .engineTurn = .engineTurn := by rw [harr]; rfl
  by_cases accepts : s.busy = false ∧ s.err = 0
  · obtain ⟨hb, he⟩ := accepts
    have accepted : step s = .next { s.taken with cur := c, done := false, busy := true, resp := some .writeDone } := by
      rw [step_eq_arrive, hup]
      exact arrive_cmdAccepted (t := s.taken) c hr hb he
    obtain ⟨t, ht, done, ovr, err⟩ := step_completing_check
      (s := { s.taken with cur := c, done := false, busy := true, resp := some .writeDone }) ⟨next, hr, rfl⟩ he
    refine ⟨t, (run_succ_of_next accepted).trans (run_succ_of_next ht),
      (commandSucceeded_statusWord_iff s t).trans ?_⟩
    have kept : t.ovr = s.ovr := ovr
    simp only [errorCause_congr] at err
    rw [err, kept, done]
    simp [hb, he]
  · have drops : s.busy = true ∨ s.err ≠ 0 := by
      by_cases he : s.err = 0
      · exact .inl (by simpa [he] using accepts)
      · exact .inr he
    obtain ⟨t, ht, ovr⟩ := step_engineTurn_ovr (s := { s.taken with ovr := true, resp := some .writeDone }) next
    refine ⟨t, (run_succ_of_next (step_cmdDropped ⟨hup, hr⟩ drops)).trans (run_succ_of_next ht),
      (commandSucceeded_statusWord_iff s t).trans ?_⟩
    exact iff_of_false (fun ⟨_, clear, _⟩ => by simp [ovr] at clear) fun ⟨_, hb, he, _⟩ => accepts ⟨hb, he⟩

end Sys2Proof.Machine
end
